-- ==== Sys2Proof/Word.lean ====
section
/-! DEFINITION. The machine words of the register-cell block and the one shift the spec writes (R11, R12). -/

namespace Sys2Proof

/-- A cell value, a modify immediate, an observer parameter: `u32` (R9 `W`, R11). -/
abbrev Word := BitVec 32

/-- A bus address: an unsigned 32-bit key, not a byte offset (R9 `AW`, R50). -/
abbrev Addr := BitVec 32

/-- A UART byte or an `AUX` field (R80, R83). -/
abbrev Byte := BitVec 8

/-- The handle of an external observer: `AUX[6:0]` (R84). -/
abbrev Handle := BitVec 7

/-- A DAC sample as the history holds it: 12 bits (R9, R43). -/
abbrev Sample := BitVec 12

/-- `1 << n`, which the spec defines for `n ≤ 31` only (R12). -/
def bit (n : Nat) : Word := 1#32 <<< n

end Sys2Proof
end

