-- ==== Sys2Proof/Config.lean ====
section
/-! DEFINITION. The names the spec gives (ports, groups, sources, registers), the request format, and the
configuration of R45: what is fixed for a run and is not state, together with the free values of the model. -/

namespace Sys2Proof

/-- The GPIO port selector, `P ∈ {A, B, C, D}` (R24). -/
inductive Port where
  | a | b | c | d
  deriving DecidableEq, Repr, Inhabited

/-- The dispatch groups (R9, R38). -/
inductive Group where
  | gpio | rtc | dac | uart
  deriving DecidableEq, Repr, Inhabited

/-- The interrupt sources (R29, R140). -/
inductive Source where
  | portA | portB | portC | portD | rtc | dac | uart
  deriving DecidableEq, Repr, Inhabited

/-- The named registers: 33 of them (R47, R58). -/
inductive RegName where
  | gpioCtrl (p : Port)
  | gpioInt (p : Port)
  | gpioOut (p : Port)
  | gpioIn (p : Port)
  | pend
  | timerCtrl | timerTop | timerCmp
  | rtcCtrl | rtcCnt | rtcCmp
  | dacCtrl | dacData
  | uartCtrl | uartRxData | uartTxData | uartStatus
  | adcCtrl | adcAdmux | adcData | adcStatus
  deriving DecidableEq, Repr

/-- Every named register once, so that distinctness of the addresses is a statement about one list (R37). -/
def RegName.all : List RegName :=
  [.gpioCtrl .a, .gpioInt .a, .gpioOut .a, .gpioIn .a,
   .gpioCtrl .b, .gpioInt .b, .gpioOut .b, .gpioIn .b,
   .gpioCtrl .c, .gpioInt .c, .gpioOut .c, .gpioIn .c,
   .gpioCtrl .d, .gpioInt .d, .gpioOut .d, .gpioIn .d] ++
  [.pend, .timerCtrl, .timerTop, .timerCmp, .rtcCtrl, .rtcCnt, .rtcCmp, .dacCtrl, .dacData,
   .uartCtrl, .uartRxData, .uartTxData, .uartStatus, .adcCtrl, .adcAdmux, .adcData, .adcStatus]

/-- The direction of an access that an observer watches (R22, R41). -/
inductive Dir where
  | read | write
  deriving DecidableEq, Repr

/-- What an observer is handed: the value read, or the value before and after a changing store (R101, R102). -/
inductive Event where
  | read (value : Word)
  | write (old value : Word)
  deriving DecidableEq, Repr

/-- The direction of an event. -/
def Event.dir : Event → Dir
  | .read _ => .read
  | .write _ _ => .write

/-- A command as it stands at a request port, less its origin (R80). -/
structure Command where
  hdr : BitVec 16
  addr : Addr
  data : Word
  deriving DecidableEq, Repr

/-- `GPIO_EDGE_POLICY` (R10, R145). -/
inductive EdgePolicy where
  | any | rising
  deriving DecidableEq, Repr, Inhabited

/-- `GPIO_DISPATCH_ORDER` (R10, R221). -/
inductive DispatchOrder where
  | ascending | any
  deriving DecidableEq, Repr, Inhabited

/-- The address map of the spec's own test vectors (95_test_vectors.md 0.1), "an arbitrary choice for testing only".
It shows that a legal configuration exists; `Config.current` is not known to be it. -/
def RegName.testAddr : RegName → Addr
  | .gpioCtrl .a => 0x1000 | .gpioInt .a => 0x1004 | .gpioOut .a => 0x1008 | .gpioIn .a => 0x100C
  | .gpioCtrl .b => 0x1010 | .gpioInt .b => 0x1014 | .gpioOut .b => 0x1018 | .gpioIn .b => 0x101C
  | .gpioCtrl .c => 0x1020 | .gpioInt .c => 0x1024 | .gpioOut .c => 0x1028 | .gpioIn .c => 0x102C
  | .gpioCtrl .d => 0x1030 | .gpioInt .d => 0x1034 | .gpioOut .d => 0x1038 | .gpioIn .d => 0x103C
  | .pend => 0x2000
  | .timerCtrl => 0x3000 | .timerTop => 0x3004 | .timerCmp => 0x3008
  | .rtcCtrl => 0x3100 | .rtcCnt => 0x3104 | .rtcCmp => 0x3108
  | .dacCtrl => 0x3200 | .dacData => 0x3204
  | .uartCtrl => 0x3300 | .uartRxData => 0x3304 | .uartTxData => 0x3308 | .uartStatus => 0x330C
  | .adcCtrl => 0x3400 | .adcAdmux => 0x3404 | .adcData => 0x3408 | .adcStatus => 0x340C

theorem RegName.testAddr_distinct : (RegName.all.map RegName.testAddr).Nodup := by decide

/-- The configuration: fixed before reset and changed by no command (R45, R264). A configuration that gives two named
registers one address cannot be built (R37), nor one with an empty history (R10 `DAC_HIST_LEN`, D42). The default
values only witness that a legal configuration exists; they are the spec's test configuration. -/
structure Config where
  /-- `ADDR_*`, open (R58, D2). -/
  addr : RegName → Addr := RegName.testAddr
  /-- R37: the named addresses are pairwise distinct. -/
  addrDistinct : (RegName.all.map addr).Nodup := by exact RegName.testAddr_distinct
  /-- `HOOK_PRESENT`, open (R225, D27). -/
  hookPresent : Source → Bool := fun _ => true
  /-- `ext_obs(handle, param, direction, event, CELL)`, open: the commands an external observer issues (R113, D9). -/
  extObs : Handle → Word → Dir → Event → (Addr → Word) → List Command := fun _ _ _ _ _ => []
  /-- `DAC_HIST_LEN`, open (R43, D42). -/
  dacHistLen : Nat := 4
  dacHistLen_pos : 0 < dacHistLen := by decide
  /-- `GPIO_EDGE_POLICY` (R145, D20). -/
  edgePolicy : EdgePolicy := .any
  /-- `GPIO_DISPATCH_ORDER` (R221, D25). -/
  dispatchOrder : DispatchOrder := .ascending
  /-- `UART_STATUS_ON_RX`, open: nothing may be assumed of it (R149, U6, D24). -/
  uartStatusOnRx : Word → Word := id
  /-- FREE VALUE: the arbiter's choice at the n-th granted step (R230, U14). -/
  freeTurn : Nat → Nat := id
  /-- FREE VALUE: the source a scan step picks under the order `ANY` (R221, U13). -/
  freeSource : Nat → Nat := id
  deriving Inhabited

/-- The configuration of THIS block. It has no body: the spec leaves every field of it open, so nothing can be proved
about one but what the structure's two side conditions say (log 1). -/
opaque Config.current : Config

end Sys2Proof
end

