-- ==== Sys2Proof/Machine/Operands.lean ====
section
/-! DEFINITION. Every operand form of the command set: source bits, dispatch groups, port indices, the UART byte, the
DAC sample, and the bits of a source (R83, R84, R86, R140). Nothing here touches the state. -/

namespace Sys2Proof

/-- The bit position of a source in `PEND` (R29, R140). -/
def Source.index : Source → Nat
  | .portA => 0
  | .portB => 1
  | .portC => 2
  | .portD => 3
  | .rtc => 14
  | .dac => 16
  | .uart => 23

/-- `1 << k` for a source bit k. -/
def Source.bit (k : Source) : Word := Sys2Proof.bit k.index

/-- The dispatch group that serves a source (R140). -/
def Source.group : Source → Group
  | .portA => .gpio
  | .portB => .gpio
  | .portC => .gpio
  | .portD => .gpio
  | .rtc => .rtc
  | .dac => .dac
  | .uart => .uart

/-- `SRC`: the sources in ascending order of their bits (R140). -/
def Source.all : List Source := [.portA, .portB, .portC, .portD, .rtc, .dac, .uart]

/-- The source whose bit index an `AUX` field names, if it is one of `SRC` (R84, R86). -/
def Source.ofAux (k : Byte) : Option Source := Source.all.find? fun src => src.index == k.toNat

/-- The `AUX` field that names a source (R91). -/
def Source.aux (k : Source) : Byte := BitVec.ofNat 8 k.index

/-- The four groups, in the order of R38. -/
def Group.all : List Group := [.gpio, .rtc, .dac, .uart]

/-- The sources of a group, in ascending order of their bits (R140). -/
def Group.sources (g : Group) : List Source := Source.all.filter fun k => k.group == g

/-- `MASK[g]` (R140). -/
def Group.mask : Group → Word
  | .gpio => 0x0000000F
  | .rtc => 0x00004000
  | .dac => 0x00010000
  | .uart => 0x00800000

/-- `idx(P)` (R24). -/
def Port.index : Port → Nat
  | .a => 0
  | .b => 1
  | .c => 2
  | .d => 3

/-- The port an observer parameter or a selector names, if it is at most 3 (R86, R181). -/
def Port.ofIndex : Nat → Option Port
  | 0 => some .a
  | 1 => some .b
  | 2 => some .c
  | 3 => some .d
  | _ => none

/-- The source that port P's input producer asserts: bit `idx(P)` (R145). -/
def Port.source : Port → Source
  | .a => .portA
  | .b => .portB
  | .c => .portC
  | .d => .portD

/-- The UART byte as a cell value, zero-extended (R52, R83). -/
def uartByteWord (b : Byte) : Word := b.setWidth 32

/-- The sample the DAC history is given: `d & 0xFFF` (R148). -/
def dacSample (d : Word) : Sample := d.extractLsb' 0 12

end Sys2Proof
end

