-- ==== Sys2Proof/Syntax.lean ====
section
/-! DEFINITION. The command set as abstract syntax: one constructor per row of spec/opcode_table.json (R85, R90).
Operands keep the width of the field they come from; what R86 and R87 ask of their values is `Instr.wellFormed`. -/

namespace Sys2Proof

/-- A command of the register bus, or an internal producer or dispatch operation (R2, R85). The origin is no part of
it: the block infers the origin from the request port (R80). -/
inductive Instr where
  /-- R104: read the cell at `a`. -/
  | rd (a : Addr)
  /-- R105: write `v` to the cell at `a`. -/
  | wr (a : Addr) (v : Word)
  /-- R106: AND the cell at `a` with `imm`. -/
  | mand (a : Addr) (imm : Word)
  /-- R107: OR the cell at `a` with `imm`. -/
  | mor (a : Addr) (imm : Word)
  /-- R108: XOR the cell at `a` with `imm`. -/
  | mxor (a : Addr) (imm : Word)
  /-- R109: register the external read observer `h` with parameter `p` at `a`. -/
  | setrobs (a : Addr) (h : Handle) (p : Word)
  /-- R110: register the GPIO input producer of port index `p` as the write observer of `a`. -/
  | setwobsGpioIn (a : Addr) (p : Word)
  /-- R110: register the external write observer `h` with parameter `p` at `a`. -/
  | setwobsExternal (a : Addr) (h : Handle) (p : Word)
  /-- R111: debug read. -/
  | drd (a : Addr)
  /-- R112: debug write. -/
  | dwr (a : Addr) (v : Word)
  /-- R147: one RTC period elapses. -/
  | rtctick
  /-- R148: one DAC period elapses. -/
  | dactick
  /-- R149: the UART bridge delivers the byte `b`. -/
  | uartrx (b : Byte)
  /-- R142: a producer asserts source `k`. -/
  | assertSource (k : Byte)
  /-- R224: the hook of source `k` returns. -/
  | hret (k : Byte)
  deriving DecidableEq, Repr

end Sys2Proof
end

