-- ==== Sys2Proof/WellFormed.lean ====
section
/-! DEFINITION. Which terms of `Instr` a command can stand for: the operand checks of R86 and R87. -/

namespace Sys2Proof

/-- R86 and R87: a port index is at most 3, and the operand of `ASSERT` and `HRET` is a source bit. Every other
operand is legal at every value of its field. -/
def Instr.wellFormed : Instr → Bool
  | .rd _ => true
  | .wr _ _ => true
  | .mand _ _ => true
  | .mor _ _ => true
  | .mxor _ _ => true
  | .setrobs _ _ _ => true
  | .setwobsGpioIn _ p => (Port.ofIndex p.toNat).isSome
  | .setwobsExternal _ _ _ => true
  | .drd _ => true
  | .dwr _ _ => true
  | .rtctick => true
  | .dactick => true
  | .uartrx _ => true
  | .assertSource k => (Source.ofAux k).isSome
  | .hret k => (Source.ofAux k).isSome

end Sys2Proof
end

