-- ==== Sys2Proof/Decode.lean ====
section
/-! DEFINITION. The command format: fields of `hdr`, the decoder (total, rejecting by name), the opcode table of R90
as rows, the encoder, and the host's numbering of a command's bits (R80 to R92). -/

namespace Sys2Proof

/-- Why a command is no instruction. Each one is `ERR_ILLEGAL` to the requester (R87). -/
inductive DecodeError where
  /-- `OP ∈ {0xE, 0xF}`. -/
  | reservedOp
  /-- `RSV ≠ 0`. -/
  | reservedBits
  /-- an `AUX` outside the operation's row of R86. -/
  | badAux
  /-- `SETWOBS` with `AUX = 0x01` and `data > 3`. -/
  | badParam
  deriving DecidableEq, Repr

/-- `OP = hdr[3:0]` (R80). -/
def Command.op (c : Command) : BitVec 4 := c.hdr.extractLsb' 0 4

/-- `RSV = hdr[7:4]` (R80). -/
def Command.rsv (c : Command) : BitVec 4 := c.hdr.extractLsb' 4 4

/-- `AUX = hdr[15:8]` (R80). -/
def Command.aux (c : Command) : Byte := c.hdr.extractLsb' 8 8

/-- `AUX[7] = 1`: the observer kind `EXTERNAL` (R84). -/
def Command.auxExternal (c : Command) : Bool := c.aux.getLsbD 7

/-- The handle of an `EXTERNAL` kind: `AUX[6:0]` (R84). -/
def Command.auxHandle (c : Command) : Handle := c.aux.extractLsb' 0 7

/-- An operation that takes no `AUX`: the field must be 0 (R86). -/
def decodePlain (c : Command) (i : Instr) : Except DecodeError Instr :=
  if c.aux = 0 then .ok i else .error .badAux

/-- `SETROBS` takes an external kind only (R86). -/
def decodeSetRobs (c : Command) : Except DecodeError Instr :=
  if c.auxExternal then .ok (.setrobs c.addr c.auxHandle c.data) else .error .badAux

/-- `SETWOBS` takes `GPIO_IN` with a port index, or an external kind (R86). -/
def decodeSetWobs (c : Command) : Except DecodeError Instr :=
  if c.aux = 1 then
    if (Port.ofIndex c.data.toNat).isSome then .ok (.setwobsGpioIn c.addr c.data) else .error .badParam
  else if c.auxExternal then .ok (.setwobsExternal c.addr c.auxHandle c.data)
  else .error .badAux

/-- `ASSERT` and `HRET` take a source bit (R86). -/
def decodeSource (c : Command) (i : Instr) : Except DecodeError Instr :=
  if (Source.ofAux c.aux).isSome then .ok i else .error .badAux

/-- The operation of a command whose `OP` and `RSV` are legal (R85). -/
def decodeOp (c : Command) : Except DecodeError Instr :=
  match c.op.toNat with
  | 0x0 => decodePlain c (.rd c.addr)
  | 0x1 => decodePlain c (.wr c.addr c.data)
  | 0x2 => decodePlain c (.mand c.addr c.data)
  | 0x3 => decodePlain c (.mor c.addr c.data)
  | 0x4 => decodePlain c (.mxor c.addr c.data)
  | 0x5 => decodeSetRobs c
  | 0x6 => decodeSetWobs c
  | 0x7 => decodePlain c (.drd c.addr)
  | 0x8 => decodePlain c (.dwr c.addr c.data)
  | 0x9 => decodePlain c .rtctick
  | 0xA => decodePlain c .dactick
  | 0xB => decodePlain c (.uartrx (c.data.extractLsb' 0 8))
  | 0xC => decodeSource c (.assertSource c.aux)
  | 0xD => decodeSource c (.hret c.aux)
  | _ => .error .reservedOp

/-- The decoder: the checks of R89 up to `AUX`, in that order, then the fields. Fields an operation does not use are
ignored (R82). -/
def decode (c : Command) : Except DecodeError Instr :=
  if 0xE ≤ c.op.toNat then .error .reservedOp
  else if c.rsv ≠ 0 then .error .reservedBits
  else decodeOp c

/-- The `hdr` of an operation: `AUX` in bits 15:8, `RSV = 0`, `OP` in bits 3:0 (R80). -/
def header (op : BitVec 4) (aux : Byte) : BitVec 16 := aux.setWidth 16 <<< 8 ||| op.setWidth 16

/-- The `AUX` of an external observer kind: `AUX[7] = 1`, `AUX[6:0]` the handle (R84). -/
def externalAux (h : Handle) : Byte := 0x80#8 ||| h.setWidth 8

/-- The encoder, from the patterns of R90 and the operand fields of R80 and R83. A field the operation ignores is
sent as 0. -/
def encode : Instr → Command
  | .rd a => ⟨header 0x0 0, a, 0⟩
  | .wr a v => ⟨header 0x1 0, a, v⟩
  | .mand a imm => ⟨header 0x2 0, a, imm⟩
  | .mor a imm => ⟨header 0x3 0, a, imm⟩
  | .mxor a imm => ⟨header 0x4 0, a, imm⟩
  | .setrobs a h p => ⟨header 0x5 (externalAux h), a, p⟩
  | .setwobsGpioIn a p => ⟨header 0x6 0x01, a, p⟩
  | .setwobsExternal a h p => ⟨header 0x6 (externalAux h), a, p⟩
  | .drd a => ⟨header 0x7 0, a, 0⟩
  | .dwr a v => ⟨header 0x8 0, a, v⟩
  | .rtctick => ⟨header 0x9 0, 0, 0⟩
  | .dactick => ⟨header 0xA 0, 0, 0⟩
  | .uartrx b => ⟨header 0xB 0, 0, uartByteWord b⟩
  | .assertSource k => ⟨header 0xC k, 0, 0⟩
  | .hret k => ⟨header 0xD k, 0, 0⟩

/-- A row of the opcode table: a command's `hdr` is of the row when it agrees with `pattern` under `mask` (R90). -/
structure OpcodeRow where
  mnemonic : String
  pattern : BitVec 16
  mask : BitVec 16
  deriving DecidableEq, Repr

def OpcodeRow.matches (r : OpcodeRow) (hdr : BitVec 16) : Bool := hdr &&& r.mask == r.pattern

/-- The table of R90, row by row. -/
def opcodeRows : List OpcodeRow :=
  [⟨"RD", 0x0000, 0xFFFF⟩, ⟨"WR", 0x0001, 0xFFFF⟩, ⟨"MAND", 0x0002, 0xFFFF⟩, ⟨"MOR", 0x0003, 0xFFFF⟩,
   ⟨"MXOR", 0x0004, 0xFFFF⟩, ⟨"SETROBS", 0x8005, 0x80FF⟩, ⟨"SETWOBS__GPIO_IN", 0x0106, 0xFFFF⟩,
   ⟨"SETWOBS__EXTERNAL", 0x8006, 0x80FF⟩, ⟨"DRD", 0x0007, 0xFFFF⟩, ⟨"DWR", 0x0008, 0xFFFF⟩,
   ⟨"RTCTICK", 0x0009, 0xFFFF⟩, ⟨"DACTICK", 0x000A, 0xFFFF⟩, ⟨"UARTRX", 0x000B, 0xFFFF⟩,
   ⟨"ASSERT", 0x000C, 0x00FF⟩, ⟨"HRET", 0x000D, 0x00FF⟩]

/-- The mnemonic of an instruction's row. -/
def Instr.mnemonic : Instr → String
  | .rd _ => "RD"
  | .wr _ _ => "WR"
  | .mand _ _ => "MAND"
  | .mor _ _ => "MOR"
  | .mxor _ _ => "MXOR"
  | .setrobs _ _ _ => "SETROBS"
  | .setwobsGpioIn _ _ => "SETWOBS__GPIO_IN"
  | .setwobsExternal _ _ _ => "SETWOBS__EXTERNAL"
  | .drd _ => "DRD"
  | .dwr _ _ => "DWR"
  | .rtctick => "RTCTICK"
  | .dactick => "DACTICK"
  | .uartrx _ => "UARTRX"
  | .assertSource _ => "ASSERT"
  | .hret _ => "HRET"

/-- A command's 80 bits numbered as the opcode table numbers them: `hdr` is bits 15..0, `addr` bits 47..16 and `data`
bits 79..48 (the order in which R80 lists the fields; log 12). -/
def Command.ofBits (w : BitVec 80) : Command :=
  ⟨w.extractLsb' 0 16, w.extractLsb' 16 32, w.extractLsb' 48 32⟩

/-- The command whose low `nbits` bits are those of `w` and whose other bits are 0; none if that is more than the 80
bits a command has. -/
def Command.ofTableWord (nbits w : Nat) : Option Command :=
  let v := w % 2 ^ nbits
  if v < 2 ^ 80 then some (.ofBits (.ofNat 80 v)) else none

/-- The host's question: the instruction the decoder reads from an instruction whose bits are `w`. -/
def decodeTableWord (nbits w : Nat) : Option Instr :=
  match Command.ofTableWord nbits w with
  | some c =>
    match decode c with
    | .ok i => some i
    | .error _ => none
  | none => none

end Sys2Proof
end

