-- ==== Sys2Proof/Machine/Flags.lean ====
section
/-! DEFINITION. The block has no condition flags: every instruction's "Flags" entry is "none" (R44). What plays their
part are the enable bits of the control registers and the edge computation of the GPIO producer, the source masks
of R151. They are written here once. -/

namespace Sys2Proof.Machine

/-- Bit 0 of a control register: RUN of `RTC_CTRL`, EN of `DAC_CTRL`, `UART_CTRL`, `TIMER_CTRL`, `ADC_CTRL`
(R30, R32, R34, R35, R36). -/
def ctrlEnabled (ctrl : Word) : Bool := ctrl.getLsbD 0

/-- Bit 7 of a control register: CIE of `RTC_CTRL`, IE of `DAC_CTRL`, RXIE of `UART_CTRL` (R32, R34, R35). -/
def ctrlIrqEnabled (ctrl : Word) : Bool := ctrl.getLsbD 7

/-- `PRESC = TIMER_CTRL[15:8]` (R30). -/
def timerPrescaler (ctrl : Word) : BitVec 8 := ctrl.extractLsb' 8 8

/-- The pins whose change counts as an edge (R145). -/
def gpioEdges (policy : EdgePolicy) (old new : Word) : Word :=
  match policy with
  | .any => old ^^^ new
  | .rising => (old ^^^ new) &&& new

/-- `SIG` one up, saturating at `SIG_MAX = 2^32 − 1` (R38, R142). -/
def sigUp (n : Word) : Word := if n = BitVec.allOnes 32 then n else n + 1

end Sys2Proof.Machine
end

