-- ==== Sys2Proof/Machine/Memory.lean ====
section
/-! DEFINITION. Sparse maps keyed by bus addresses in one canonical form, and the cell array over them. The smallest
addressable unit of this hardware is the whole 32-bit cell (R51), so the array lists cells, not bytes (log 2). -/

namespace Sys2Proof.Machine

/-- What a map lists at an address. -/
def assocGet {β : Type} : List (Addr × β) → Addr → Option β
  | [], _ => none
  | (k, v) :: m, a => if k = a then some v else assocGet m a

/-- The map with `v` listed at `a`, in its place in the rising order of addresses. -/
def assocPut {β : Type} : List (Addr × β) → Addr → β → List (Addr × β)
  | [], a, v => [(a, v)]
  | (k, w) :: m, a, v =>
    if a = k then (a, v) :: m
    else if a < k then (a, v) :: (k, w) :: m
    else (k, w) :: assocPut m a v

/-- The map without its entry at `a`. -/
def assocErase {β : Type} : List (Addr × β) → Addr → List (Addr × β)
  | [], _ => []
  | (k, w) :: m, a => if k = a then m else (k, w) :: assocErase m a

/-- The canonical form of a map: addresses strictly rising. -/
abbrev assocSorted {β : Type} (m : List (Addr × β)) : Prop := m.Pairwise fun x y => x.1 < y.1

/-- The cell array: the cells that differ from what an unlisted cell reads as. -/
abbrev Memory := List (Addr × Word)

/-- A cell nothing has written reads 0 (R20, R21). -/
def Memory.unlisted : Word := 0

/-- The canonical form: addresses strictly rising, and no entry equal to what an unlisted address reads as. -/
abbrev Memory.wf (m : Memory) : Prop := assocSorted m ∧ (m.all fun x => x.2 != Memory.unlisted) = true

/-- `CELL[a]`, without side effect (R13). -/
def Memory.read (m : Memory) (a : Addr) : Word := (assocGet m a).getD Memory.unlisted

/-- `CELL[a] <- v`, without side effect (R13): all 32 bits are stored (R23). -/
def Memory.write (m : Memory) (a : Addr) (v : Word) : Memory :=
  if v = Memory.unlisted then assocErase m a else assocPut m a v

end Sys2Proof.Machine
end

