-- ==== Sys2Proof/Machine/State.lean ====
section
/-! DEFINITION. The state of the block as plain data (10_state.md), the outcomes of a step, and the state after reset. -/

namespace Sys2Proof.Machine

/-- Why the machine stops with a fault. -/
inductive Fault where
  /-- Raised by `step` alone, when `FAULT` holds `FAULT_REENTRANT` already: no step is enabled then and only reset
  leaves the state (R214, R230). Safe: the hardware takes no step there either. -/
  | reentrant
  deriving DecidableEq, Repr

/-- Why an instruction has no meaning. -/
inductive Refusal where
  /-- Raised by an arm of `exec` that has no meaning yet. Safe: the model stops where the hardware goes on. -/
  | notModelled (mnemonic : String)
  deriving DecidableEq, Repr

/-- The code that `FAULT` records (R42, R210). -/
inductive FaultCode where
  /-- `FAULT_REENTRANT`, 0x10. -/
  | reentrant
  deriving DecidableEq, Repr

/-- One value for each dispatch group. -/
structure PerGroup (α : Type) where
  gpio : α
  rtc : α
  dac : α
  uart : α
  deriving DecidableEq, Repr

/-- `LOOP[g]` (R39). -/
inductive LoopState where
  | wait
  | scan
  | call (k : Source)
  deriving DecidableEq, Repr

/-- An observer supplied by the environment: its handle and its parameter (R22, R84). -/
structure External where
  handle : Handle
  param : Word
  deriving DecidableEq, Repr

/-- What a write observer slot can hold. A read observer slot holds an `External`: `GPIO_IN` is a write observer only
(R86; log 13). The parameter of `GPIO_IN` is a port index, at most 3 (R86, R87). -/
inductive Observer where
  | gpioIn (p : Port)
  | external (x : External)
  deriving DecidableEq, Repr

/-- The origin of a command (R14). -/
inductive Origin where
  | fw (i : Nat)
  | dbg
  | hook (g : Group)
  | clk
  | uartb
  | obs (a : Addr)
  | int
  deriving DecidableEq, Repr

/-- A command waiting at a request port (R80, R230). -/
structure Request where
  origin : Origin
  cmd : Command
  deriving DecidableEq, Repr

/-- The response to a command (R81). -/
structure Response where
  ok : Bool
  code : BitVec 8
  rdata : Word
  deriving DecidableEq, Repr

/-- A step the arbiter can grant (R230). -/
inductive Turn where
  /-- the head command of a requester -/
  | request (o : Origin)
  /-- the wake step of a dispatch loop (R219) -/
  | wake (g : Group)
  /-- the scan step of a dispatch loop (R221) -/
  | scan (g : Group)
  deriving DecidableEq, Repr

/-- Everything the spec gives the block, and three fields of the model's own (`origin`, `sched`, `draws`). -/
structure State where
  /-- `CELL` (R20), every named register among them (R47). -/
  cells : Memory
  /-- `ROBS` (R22). -/
  robs : List (Addr × External)
  /-- `WOBS` (R22). -/
  wobs : List (Addr × Observer)
  /-- `SIG[g]` (R38). -/
  sig : PerGroup Word
  /-- `LOOP[g]` (R39). -/
  loop : PerGroup LoopState
  /-- `SNAP[g]` (R39). -/
  snap : PerGroup Word
  /-- `ACTIVE`, the innermost observer first (R41). -/
  active : List (Addr × Dir)
  /-- `FAULT` (R42). -/
  fault : Option FaultCode
  /-- `HIST` (R43). -/
  hist : List Sample
  /-- `WIDX` (R43). -/
  widx : Nat
  /-- The requester queues, all in one list, oldest command first (R230, R260; log 5). -/
  inbox : List Request
  /-- The response to the command granted or refused last, with the origin it answers (R81; log 3). -/
  resp : Option (Origin × Response)
  /-- The model's own: the port of the command granted or refused last (R80; log 4). -/
  origin : Origin
  /-- The model's own: grants chosen in advance, the next one first (log 6). -/
  sched : List Turn
  /-- The model's own: how many free choices have been drawn (log 6). -/
  draws : Nat
  deriving DecidableEq, Repr

/-- `WOBS` at reset: the input producer of each port at its IN register, nothing else (R261). -/
def resetWobs (c : Config) : List (Addr × Observer) :=
  let m := assocPut [] (c.addr (.gpioIn .a)) (.gpioIn .a)
  let m := assocPut m (c.addr (.gpioIn .b)) (.gpioIn .b)
  let m := assocPut m (c.addr (.gpioIn .c)) (.gpioIn .c)
  assocPut m (c.addr (.gpioIn .d)) (.gpioIn .d)

/-- The state after reset under the configuration `c` (R260). -/
def resetOn (c : Config) : State where
  cells := []
  robs := []
  wobs := resetWobs c
  sig := ⟨0, 0, 0, 0⟩
  loop := ⟨.wait, .wait, .wait, .wait⟩
  snap := ⟨0, 0, 0, 0⟩
  active := []
  fault := none
  hist := List.replicate c.dacHistLen 0
  widx := 0
  inbox := []
  resp := none
  origin := .fw 0
  sched := []
  draws := 0

/-- The state after reset (R260). Reset does not change the configuration. -/
def State.reset : State := resetOn Config.current

end Sys2Proof.Machine
end

