-- ==== Sys2Proof/Machine/Ops.lean ====
section
/-! DEFINITION. The shared operations: accessors, observers and their cascade, the fault, the observed bus operations,
Assert, entering and leaving a hook, and how a command is answered. The configuration is an argument, so that every
operation can be run on the spec's test configuration. -/

namespace Sys2Proof

/-- The group's component. -/
def Machine.PerGroup.get {α : Type} (x : Machine.PerGroup α) : Group → α
  | .gpio => x.gpio
  | .rtc => x.rtc
  | .dac => x.dac
  | .uart => x.uart

/-- The same with the group's component replaced. -/
def Machine.PerGroup.set {α : Type} (x : Machine.PerGroup α) (g : Group) (v : α) : Machine.PerGroup α :=
  match g with
  | .gpio => { x with gpio := v }
  | .rtc => { x with rtc := v }
  | .dac => { x with dac := v }
  | .uart => { x with uart := v }

namespace Machine

/-! ## Accessors: the one home of every register -/

/-- `CELL[a]` (R13). -/
def State.cell (s : State) (a : Addr) : Word := s.cells.read a

/-- `CELL[a] <- v` (R13). -/
def State.setCell (s : State) (a : Addr) (v : Word) : State := { s with cells := s.cells.write a v }

/-- A named register is the cell at its address (R47). -/
def State.reg (c : Config) (s : State) (r : RegName) : Word := s.cell (c.addr r)

/-- `ROBS[a]` (R22). -/
def State.robsAt (s : State) (a : Addr) : Option External := assocGet s.robs a

/-- `WOBS[a]` (R22). -/
def State.wobsAt (s : State) (a : Addr) : Option Observer := assocGet s.wobs a

/-- `ROBS[a] <- Some(x)` (R109). -/
def State.setRobs (s : State) (a : Addr) (x : External) : State := { s with robs := assocPut s.robs a x }

/-- `WOBS[a] <- Some(o)` (R110). -/
def State.setWobs (s : State) (a : Addr) (o : Observer) : State := { s with wobs := assocPut s.wobs a o }

/-- `SIG[g]` (R38). -/
def State.sigOf (s : State) (g : Group) : Word := s.sig.get g

/-- `LOOP[g]` (R39). -/
def State.loopOf (s : State) (g : Group) : LoopState := s.loop.get g

/-- `SNAP[g]` (R39). -/
def State.snapOf (s : State) (g : Group) : Word := s.snap.get g

def State.setSig (s : State) (g : Group) (n : Word) : State := { s with sig := s.sig.set g n }

def State.setLoop (s : State) (g : Group) (l : LoopState) : State := { s with loop := s.loop.set g l }

def State.setSnap (s : State) (g : Group) (m : Word) : State := { s with snap := s.snap.set g m }

/-- A producer releases the group's signal (R142). -/
def State.releaseSignal (s : State) (g : Group) : State := s.setSig g (sigUp (s.sigOf g))

/-- A wake takes one count of the group's signal (R219). -/
def State.takeSignal (s : State) (g : Group) : State := s.setSig g (s.sigOf g - 1)

/-- `ACTIVE.push((a, dir))` (R103). -/
def State.pushActive (s : State) (a : Addr) (d : Dir) : State := { s with active := (a, d) :: s.active }

/-- `ACTIVE.pop()` (R103). -/
def State.popActive (s : State) : State := { s with active := s.active.tail }

/-- `ACTIVE` is empty between transactions (R41). -/
def State.clearActive (s : State) : State := { s with active := [] }

/-- `a ∈ { addr | (addr, _) ∈ ACTIVE }` (R103). -/
def State.isActive (s : State) (a : Addr) : Bool := s.active.any fun x => x.1 == a

/-- `FAULT <- Some(0x10)` (R214). -/
def State.setFault (s : State) : State := { s with fault := some .reentrant }

/-- `DacAppend(v)` (R190). -/
def State.appendSample (c : Config) (s : State) (v : Sample) : State :=
  { s with hist := s.hist.set s.widx v, widx := (s.widx + 1) % c.dacHistLen }

/-! ## Codes and responses -/

/-- The code that `FAULT` records (R210). -/
def FaultCode.code : FaultCode → BitVec 8
  | .reentrant => 0x10

/-- `ERR_ILLEGAL` (R210). -/
def errIllegal : BitVec 8 := 0x01

/-- `ERR_ORIGIN` (R210). -/
def errOrigin : BitVec 8 := 0x02

/-- `ERR_INVALID_SELECTOR` (R210). -/
def errInvalidSelector : BitVec 8 := 0x03

/-- `ERR_NO_CALL` (R210). -/
def errNoCall : BitVec 8 := 0x04

/-- The response of a command that took effect (R81, R100). -/
def Response.success (v : Word) : Response := ⟨true, 0x00, v⟩

/-- The response of a failed command (R81, R211). -/
def Response.error (code : BitVec 8) : Response := ⟨false, code, 0⟩

/-- The response port answers the command granted or refused last. -/
def State.respond (s : State) (r : Response) : State := { s with resp := some (s.origin, r) }

/-- A transaction that faulted delivers no response (R214; log 3). -/
def State.noResponse (s : State) : State := { s with resp := none }

/-! ## Transactions in progress -/

/-- A piece of a transaction: it went on with a value, or a fault stopped the transaction there (R214). -/
inductive TxResult (α : Type) where
  | ok (v : α) (s : State)
  | halt (s : State)
  deriving DecidableEq, Repr

/-- What follows runs only if no fault stopped the transaction (R214). -/
def TxResult.bind {α β : Type} (r : TxResult α) (f : α → State → TxResult β) : TxResult β :=
  match r with
  | .ok v s => f v s
  | .halt s => .halt s

/-- The state a piece of a transaction has come to. -/
def TxResult.state {α : Type} : TxResult α → State
  | .ok _ s => s
  | .halt s => s

/-- How an observer is run: the address it watches, the observer, the event (R103). -/
abbrev Runner := Addr → Observer → Event → State → TxResult Unit

/-- `raise Fault(FAULT_REENTRANT)`: the fault is recorded, the transaction stops, its effects stay (R214). -/
def raiseFault {α : Type} (s : State) : TxResult α := .halt s.setFault

/-! ## Observed bus operations -/

/-- `FireRead(a, v)` (R101). -/
def fireRead (run : Runner) (a : Addr) (v : Word) (s : State) : TxResult Unit :=
  match s.robsAt a with
  | some x => run a (.external x) (.read v) s
  | none => .ok () s

/-- `FireWrite(a, old, new)` (R102). -/
def fireWrite (run : Runner) (a : Addr) (old new : Word) (s : State) : TxResult Unit :=
  match s.wobsAt a with
  | some o => run a o (.write old new) s
  | none => .ok () s

/-- `BusRead(a)`: the value sampled before the observer ran (R104). -/
def busRead (run : Runner) (a : Addr) (s : State) : TxResult Word :=
  (fireRead run a (s.cell a) s).bind fun _ t => .ok (s.cell a) t

/-- The store of R105: only a changing store stores and fires. `old` is the value the caller has read. -/
def busStore (run : Runner) (a : Addr) (old new : Word) (s : State) : TxResult Unit :=
  if new = old then .ok () s else fireWrite run a old new (s.setCell a new)

/-- `BusWrite(a, v)` (R105). -/
def busWrite (run : Runner) (a : Addr) (v : Word) (s : State) : TxResult Unit :=
  busStore run a (s.cell a) v s

/-- `Modify(a, f)` (R116). -/
def busModify (run : Runner) (a : Addr) (f : Word → Word) (s : State) : TxResult Unit :=
  (fireRead run a (s.cell a) s).bind fun _ t => busStore run a (s.cell a) (f (s.cell a)) t

/-! ## The effect of each bus command, as a top-level command and as a nested one -/

/-- R104. -/
def effectRd (run : Runner) (a : Addr) (s : State) : TxResult Word := busRead run a s

/-- R105. -/
def effectWr (run : Runner) (a : Addr) (v : Word) (s : State) : TxResult Unit := busWrite run a v s

/-- R106. -/
def effectMand (run : Runner) (a : Addr) (imm : Word) (s : State) : TxResult Unit :=
  busModify run a (fun x => x &&& imm) s

/-- R107. -/
def effectMor (run : Runner) (a : Addr) (imm : Word) (s : State) : TxResult Unit :=
  busModify run a (fun x => x ||| imm) s

/-- R108. -/
def effectMxor (run : Runner) (a : Addr) (imm : Word) (s : State) : TxResult Unit :=
  busModify run a (fun x => x ^^^ imm) s

/-- `ROBS[a] <- Some(EXTERNAL(h), p)` (R109). -/
def effectSetrobs (a : Addr) (h : Handle) (p : Word) (s : State) : TxResult Unit := .ok () (s.setRobs a ⟨h, p⟩)

/-- `WOBS[a] <- Some(GPIO_IN, p)` (R110). -/
def effectSetwobsGpioIn (a : Addr) (p : Port) (s : State) : TxResult Unit := .ok () (s.setWobs a (.gpioIn p))

/-- `WOBS[a] <- Some(EXTERNAL(h), p)` (R110). -/
def effectSetwobsExternal (a : Addr) (h : Handle) (p : Word) (s : State) : TxResult Unit :=
  .ok () (s.setWobs a (.external ⟨h, p⟩))

/-- R111: exactly R104. -/
def effectDrd (run : Runner) (a : Addr) (s : State) : TxResult Word := busRead run a s

/-- R112: exactly R105. -/
def effectDwr (run : Runner) (a : Addr) (v : Word) (s : State) : TxResult Unit := busWrite run a v s

/-! ## The block's own micro-operations -/

/-- `Assert(k)` (R142). Inside a cascade in which `ADDR_PEND` is active it raises the fault; with `ACTIVE` empty the
check cannot fail (R103). -/
def assertTx (c : Config) (run : Runner) (k : Source) (s : State) : TxResult Unit :=
  if s.isActive (c.addr .pend) then raiseFault s
  else (busModify run (c.addr .pend) (fun x => x ||| k.bit) s).bind fun _ t => .ok () (t.releaseSignal k.group)

/-- A nested `RD` of the block's own, checked against `ACTIVE` (R103). -/
def nestedRead (run : Runner) (a : Addr) (s : State) : TxResult Word :=
  if s.isActive a then raiseFault s else busRead run a s

/-! ## The observer cascade -/

/-- `GpioInProducer(p, ev)` (R145). -/
def gpioInProducer (c : Config) (run : Runner) (p : Port) (old new : Word) (s : State) : TxResult Unit :=
  (nestedRead run (c.addr (.gpioInt p)) s).bind fun en t =>
    if gpioEdges c.edgePolicy old new &&& en ≠ 0 then assertTx c run p.source t else .ok () t

/-- The effect of a bus command with the response left out; an operation that no observer may issue has none, since it
fails with `ERR_ORIGIN` and is skipped (R85, R113). -/
def nestedEffect (run : Runner) (i : Instr) (s : State) : TxResult Unit :=
  match i with
  | .rd a => (effectRd run a s).bind fun _ t => .ok () t
  | .wr a v => effectWr run a v s
  | .mand a imm => effectMand run a imm s
  | .mor a imm => effectMor run a imm s
  | .mxor a imm => effectMxor run a imm s
  | .setrobs a h p => effectSetrobs a h p s
  | .setwobsGpioIn a p =>
    match Port.ofIndex p.toNat with
    | some q => effectSetwobsGpioIn a q s
    | none => .ok () s
  | .setwobsExternal a h p => effectSetwobsExternal a h p s
  | .drd a => (effectDrd run a s).bind fun _ t => .ok () t
  | .dwr a v => effectDwr run a v s
  | .rtctick => .ok () s
  | .dactick => .ok () s
  | .uartrx _ => .ok () s
  | .assertSource _ => .ok () s
  | .hret _ => .ok () s

/-- `c` names an address: its `OP` is 0x0 to 0x8 (R103). -/
def namesAddress (cmd : Command) : Bool := cmd.op.toNat ≤ 8

/-- `Nested(c)`: the check against `ACTIVE` comes first, then the command runs under R100; a failed one is skipped
(R103, R212; log 15). -/
def nested (run : Runner) (cmd : Command) (s : State) : TxResult Unit :=
  if namesAddress cmd && s.isActive cmd.addr then raiseFault s
  else
    match decode cmd with
    | .ok i => nestedEffect run i s
    | .error _ => .ok () s

/-- The commands of an external observer, in list order, each to its end before the next (R103, D48). -/
def nestedAll (run : Runner) : List Command → State → TxResult Unit
  | [], s => .ok () s
  | cmd :: l, s => (nested run cmd s).bind fun _ t => nestedAll run l t

/-- What an observer does, by its kind (R103). No read slot holds `GPIO_IN`, so a read event never reaches it (R86). -/
def observerBody (c : Config) (run : Runner) (o : Observer) (ev : Event) (s : State) : TxResult Unit :=
  match o with
  | .gpioIn p =>
    match ev with
    | .write old new => gpioInProducer c run p old new s
    | .read _ => .ok () s
  | .external x => nestedAll run (c.extObs x.handle x.param ev.dir ev s.cell) s

/-- `RunObserver` (R103), for a cascade at most `n` observers deep. -/
def runObserver (c : Config) : Nat → Runner
  | 0 => fun _ _ _ s => raiseFault s
  | n + 1 => fun a o ev s =>
    (observerBody c (runObserver c n) o ev (s.pushActive a ev.dir)).bind fun _ t => .ok () t.popActive

/-- No cascade is deeper than the number of addresses: the observers running have pairwise different addresses
(R103; log 14). -/
def cascadeDepth : Nat := 4294967296

/-- The runner of a top-level transaction. -/
def cascade (c : Config) : Runner := runObserver c cascadeDepth

/-! ## Hooks -/

/-- Hook entry, the analogue of taking an exception: only `LOOP[g]` changes; nothing is saved, no mode and no mask
changes, and the hook that starts is the one of the source's own number (R222, R238). -/
def enterHook (k : Source) (s : State) : State := s.setLoop k.group (.call k)

/-- Hook return: `LOOP[g] <- SCAN` (R224). -/
def leaveHook (k : Source) (s : State) : State := s.setLoop k.group .scan

/-! ## Granting a command -/

/-- `LOOP[g] = CALL(k)` for some k. -/
def LoopState.inCall : LoopState → Bool
  | .call _ => true
  | .wait => false
  | .scan => false

/-- The origins that may issue the bus operations 0x0 to 0x8 (R85, R213). -/
def mayUseBus (s : State) : Bool :=
  match s.origin with
  | .fw _ => true
  | .dbg => true
  | .hook g => (s.loopOf g).inCall
  | .obs _ => true
  | .clk => false
  | .uartb => false
  | .int => false

/-- The end of a command's transaction: `ACTIVE` is empty again, and the requester is answered unless a fault stopped
the transaction (R41, R81, R100; logs 3, 9). -/
def closeCommand : TxResult Word → State
  | .ok v s => s.clearActive.respond (.success v)
  | .halt s => s.clearActive.noResponse

/-- A command that answers no data: `rdata = 0` (R81). -/
def noData (r : TxResult Unit) : TxResult Word := r.bind fun _ s => .ok 0 s

/-- An illegal command: nothing changes and the requester is answered (R87, R211). -/
def illegal (s : State) : State := s.respond (.error errIllegal)

/-- A command whose encoding is legal: the origin check, then the transaction (R89, R100). A failed check changes
nothing and is answered (R211). -/
def command (allowed : Bool) (tx : State → TxResult Word) (s : State) : State :=
  if allowed then closeCommand (tx s.clearActive) else s.respond (.error errOrigin)

end Machine

end Sys2Proof
end

