-- ==== Sys2Proof/Machine/Bus.lean ====
section
/-! DEFINITION. The meanings of the bus commands RD, WR, MAND, MOR, MXOR, SETROBS, SETWOBS, DRD and DWR
(41_bus_operations.md). `xxxOn c` is the meaning under a configuration c; `execXxx` is the block's own. -/

namespace Sys2Proof.Machine

/-- R104: the response holds the value sampled before the read observer ran. -/
def rdOn (c : Config) (a : Addr) (s : State) : State := command (mayUseBus s) (effectRd (cascade c) a) s

/-- R105. -/
def wrOn (c : Config) (a : Addr) (v : Word) (s : State) : State :=
  command (mayUseBus s) (fun t => noData (effectWr (cascade c) a v t)) s

/-- R106. -/
def mandOn (c : Config) (a : Addr) (imm : Word) (s : State) : State :=
  command (mayUseBus s) (fun t => noData (effectMand (cascade c) a imm t)) s

/-- R107. -/
def morOn (c : Config) (a : Addr) (imm : Word) (s : State) : State :=
  command (mayUseBus s) (fun t => noData (effectMor (cascade c) a imm t)) s

/-- R108. -/
def mxorOn (c : Config) (a : Addr) (imm : Word) (s : State) : State :=
  command (mayUseBus s) (fun t => noData (effectMxor (cascade c) a imm t)) s

/-- R109. -/
def setrobsOn (a : Addr) (h : Handle) (p : Word) (s : State) : State :=
  command (mayUseBus s) (fun t => noData (effectSetrobs a h p t)) s

/-- R110, the form `GPIO_IN`: a parameter above 3 is illegal (R87), and that is checked before the origin (R89). -/
def setwobsGpioInOn (a : Addr) (p : Word) (s : State) : State :=
  match Port.ofIndex p.toNat with
  | some q => command (mayUseBus s) (fun t => noData (effectSetwobsGpioIn a q t)) s
  | none => illegal s

/-- R110, the form `EXTERNAL`. -/
def setwobsExternalOn (a : Addr) (h : Handle) (p : Word) (s : State) : State :=
  command (mayUseBus s) (fun t => noData (effectSetwobsExternal a h p t)) s

/-- R111. -/
def drdOn (c : Config) (a : Addr) (s : State) : State := command (mayUseBus s) (effectDrd (cascade c) a) s

/-- R112. -/
def dwrOn (c : Config) (a : Addr) (v : Word) (s : State) : State :=
  command (mayUseBus s) (fun t => noData (effectDwr (cascade c) a v t)) s

/-- RD (R104). -/
def execRd (a : Addr) (s : State) : Host.Outcome State Fault Refusal := .next (rdOn Config.current a s)

/-- WR (R105). -/
def execWr (a : Addr) (v : Word) (s : State) : Host.Outcome State Fault Refusal := .next (wrOn Config.current a v s)

/-- MAND (R106). -/
def execMand (a : Addr) (imm : Word) (s : State) : Host.Outcome State Fault Refusal :=
  .next (mandOn Config.current a imm s)

/-- MOR (R107). -/
def execMor (a : Addr) (imm : Word) (s : State) : Host.Outcome State Fault Refusal :=
  .next (morOn Config.current a imm s)

/-- MXOR (R108). -/
def execMxor (a : Addr) (imm : Word) (s : State) : Host.Outcome State Fault Refusal :=
  .next (mxorOn Config.current a imm s)

/-- SETROBS (R109). -/
def execSetrobs (a : Addr) (h : Handle) (p : Word) (s : State) : Host.Outcome State Fault Refusal :=
  .next (setrobsOn a h p s)

/-- SETWOBS, kind GPIO_IN (R110). -/
def execSetwobsGpioIn (a : Addr) (p : Word) (s : State) : Host.Outcome State Fault Refusal :=
  .next (setwobsGpioInOn a p s)

/-- SETWOBS, kind EXTERNAL (R110). -/
def execSetwobsExternal (a : Addr) (h : Handle) (p : Word) (s : State) : Host.Outcome State Fault Refusal :=
  .next (setwobsExternalOn a h p s)

/-- DRD (R111). -/
def execDrd (a : Addr) (s : State) : Host.Outcome State Fault Refusal := .next (drdOn Config.current a s)

/-- DWR (R112). -/
def execDwr (a : Addr) (v : Word) (s : State) : Host.Outcome State Fault Refusal := .next (dwrOn Config.current a v s)

end Sys2Proof.Machine
end

