-- ==== Sys2Proof/Machine/Interrupt.lean ====
section
/-! DEFINITION. Interrupt dispatch: HRET, the wake and scan steps of the dispatch loops, and the state of a source as a
derived view (60_exceptions.md). -/

namespace Sys2Proof.Machine

/-- R224. The checks run in the order of R89: `AUX`, then the origin, then the call, whatever else the loop is in (R88;
log 10). `PEND` is not touched. -/
def hretOn (k : Byte) (s : State) : State :=
  match Source.ofAux k with
  | none => illegal s
  | some src =>
    if s.origin = .hook src.group then
      if s.loopOf src.group = .call src then closeCommand (.ok 0 (leaveHook src s))
      else s.respond (.error errNoCall)
    else s.respond (.error errOrigin)

/-- HRET (R224). -/
def execHret (k : Byte) (s : State) : Host.Outcome State Fault Refusal := .next (hretOn k s)

/-! ## The steps of a dispatch loop -/

/-- A loop's transaction is over: `ACTIVE` is empty again (R41). No requester is answered. -/
def closeLoop : TxResult Unit → State
  | .ok _ s => s.clearActive
  | .halt s => s.clearActive

/-- R219: the wake step is enabled. -/
def wakeEnabled (s : State) (g : Group) : Bool :=
  s.loopOf g == .wait && s.sigOf g != 0 && s.fault == none

/-- The transaction of R219: `PEND` is read through the bus, so its read observer fires. -/
def wakeTx (c : Config) (run : Runner) (g : Group) (s : State) : TxResult Unit :=
  (busRead run (c.addr .pend) (s.takeSignal g)).bind fun p s =>
    .ok () ((s.setSnap g (p &&& g.mask)).setLoop g .scan)

/-- The wake step (R219). -/
def wakeOn (c : Config) (g : Group) (s : State) : State := closeLoop (wakeTx c (cascade c) g s.clearActive)

/-- R221: the scan step is enabled. -/
def scanEnabled (s : State) (g : Group) : Bool := s.loopOf g == .scan && s.fault == none

/-- An element of a list: the one with the number n, or the last one. Every element is one of them. -/
def pickAt {α : Type} : List α → Nat → Option α
  | [], _ => none
  | [x], _ => some x
  | x :: y :: l, n =>
    match n with
    | 0 => some x
    | n + 1 => pickAt (y :: l) n

/-- The sources of a group whose bits are set in a snapshot, in ascending order. -/
def snapSources (g : Group) (m : Word) : List Source := g.sources.filter fun k => m.getLsbD k.index

/-- The source a scan step takes: the lowest set bit, or under the order `ANY` a free choice (R221; log 16). -/
def nextSource (c : Config) (g : Group) (s : State) : Option Source :=
  match c.dispatchOrder with
  | .ascending => (snapSources g (s.snapOf g)).head?
  | .any => pickAt (snapSources g (s.snapOf g)) (c.freeSource s.draws)

/-- Dispatch of source k: its bit leaves the snapshot, and its hook is entered if the firmware supplies one; an absent
hook is a no-op and the loop stays in `SCAN` (R221, R225). -/
def dispatchSource (c : Config) (g : Group) (k : Source) (s : State) : State :=
  let t := s.setSnap g (s.snapOf g &&& ~~~ k.bit)
  if c.hookPresent k then enterHook k t else t

/-- The scan step (R221). It touches no cell. A snapshot with bits of no source of the group does not occur (`SNAP[g]`
is masked, R219); it counts as empty (log 17). -/
def scanOn (c : Config) (g : Group) (s : State) : State :=
  match nextSource c g s with
  | some k => dispatchSource c g k s
  | none => s.setLoop g .wait

/-! ## The state of a source -/

/-- The FSM of a source (R40). -/
inductive SourceState where
  | idle | pending | dispatching
  deriving DecidableEq, Repr

/-- `PEND[k]`. -/
def pendBit (c : Config) (s : State) (k : Source) : Bool := (s.reg c .pend).getLsbD k.index

/-- R40: a derived view, not stored state. -/
def sourceState (c : Config) (s : State) (k : Source) : SourceState :=
  if s.loopOf k.group = .call k then .dispatching
  else if pendBit c s k then .pending
  else .idle

/-! ## The firmware hooks by name -/

/-- The hook of a source (R238). `UART_TX_ISR` is the hook of none (R150). -/
def hookName : Source → String
  | .portA => "PORT_A_ISR"
  | .portB => "PORT_B_ISR"
  | .portC => "PORT_C_ISR"
  | .portD => "PORT_D_ISR"
  | .rtc => "RTC_ISR"
  | .dac => "DAC_ISR"
  | .uart => "UART_RX_ISR"

end Sys2Proof.Machine
end

