-- ==== Sys2Proof/Machine/Producers.lean ====
section
/-! DEFINITION. The meanings of ASSERT and of the producers RTCTICK, DACTICK and UARTRX (42_interrupt_sources.md).
The GPIO producer is an observer and stands in Ops.lean (R145). Each line of a producer's pseudocode is a top-level
access of one transaction, so `ACTIVE` is empty between lines (R147). -/

namespace Sys2Proof.Machine

/-- The transaction of R147. -/
def rtctickTx (c : Config) (run : Runner) (s : State) : TxResult Unit :=
  (busRead run (c.addr .rtcCtrl) s).bind fun ctrl s =>
    if ctrlEnabled ctrl then
      (busRead run (c.addr .rtcCnt) s).bind fun cnt s =>
        (busWrite run (c.addr .rtcCnt) (cnt + 1) s).bind fun _ s =>
          if ctrlIrqEnabled ctrl then
            (busRead run (c.addr .rtcCmp) s).bind fun cmp s =>
              if cnt + 1 = cmp then assertTx c run .rtc s else .ok () s
          else .ok () s
    else .ok () s

/-- The transaction of R148. -/
def dactickTx (c : Config) (run : Runner) (s : State) : TxResult Unit :=
  (busRead run (c.addr .dacCtrl) s).bind fun ctrl s =>
    if ctrlEnabled ctrl then
      (busRead run (c.addr .dacData) s).bind fun d s =>
        let t := s.appendSample c (dacSample d)
        if ctrlIrqEnabled ctrl then assertTx c run .dac t else .ok () t
    else .ok () s

/-- The transaction of R149. The old `STATUS` is taken without an access, as the rule writes it (log 25). -/
def uartrxTx (c : Config) (run : Runner) (b : Byte) (s : State) : TxResult Unit :=
  (busWrite run (c.addr .uartRxData) (uartByteWord b) s).bind fun _ s =>
    (busWrite run (c.addr .uartStatus) (c.uartStatusOnRx (s.reg c .uartStatus)) s).bind fun _ s =>
      (busRead run (c.addr .uartCtrl) s).bind fun ctrl s =>
        if ctrlEnabled ctrl && ctrlIrqEnabled ctrl then assertTx c run .uart s else .ok () s

/-- R147: the only legal origin is `CLK`. -/
def rtctickOn (c : Config) (s : State) : State :=
  command (s.origin == .clk) (fun t => noData (rtctickTx c (cascade c) t)) s

/-- R148: the only legal origin is `CLK`. -/
def dactickOn (c : Config) (s : State) : State :=
  command (s.origin == .clk) (fun t => noData (dactickTx c (cascade c) t)) s

/-- R149: the only legal origin is `UARTB`. -/
def uartrxOn (c : Config) (b : Byte) (s : State) : State :=
  command (s.origin == .uartb) (fun t => noData (uartrxTx c (cascade c) b t)) s

/-- R142: k outside `SRC` is illegal, and that is checked before the origin (R89). The only legal origin is `INT`. -/
def assertOn (c : Config) (k : Byte) (s : State) : State :=
  match Source.ofAux k with
  | some src => command (s.origin == .int) (fun t => noData (assertTx c (cascade c) src t)) s
  | none => illegal s

/-- RTCTICK (R147). -/
def execRtctick (s : State) : Host.Outcome State Fault Refusal := .next (rtctickOn Config.current s)

/-- DACTICK (R148). -/
def execDactick (s : State) : Host.Outcome State Fault Refusal := .next (dactickOn Config.current s)

/-- UARTRX (R149). -/
def execUartrx (b : Byte) (s : State) : Host.Outcome State Fault Refusal := .next (uartrxOn Config.current b s)

/-- ASSERT (R142). -/
def execAssert (k : Byte) (s : State) : Host.Outcome State Fault Refusal := .next (assertOn Config.current k s)

end Sys2Proof.Machine
end

