-- ==== Sys2Proof/Machine/Dispatch.lean ====
section
/-! DEFINITION. The dispatch of a granted command to its meaning, one arm per constructor of `Instr`. -/

namespace Sys2Proof.Machine

/-- What a granted command does. Its origin is the state's `origin`. -/
def exec (i : Instr) (s : State) : Host.Outcome State Fault Refusal :=
  match i with
  | .rd a => Sys2Proof.Machine.execRd a s
  | .wr a v => Sys2Proof.Machine.execWr a v s
  | .mand a imm => Sys2Proof.Machine.execMand a imm s
  | .mor a imm => Sys2Proof.Machine.execMor a imm s
  | .mxor a imm => Sys2Proof.Machine.execMxor a imm s
  | .setrobs a h p => Sys2Proof.Machine.execSetrobs a h p s
  | .setwobsGpioIn a p => Sys2Proof.Machine.execSetwobsGpioIn a p s
  | .setwobsExternal a h p => Sys2Proof.Machine.execSetwobsExternal a h p s
  | .drd a => Sys2Proof.Machine.execDrd a s
  | .dwr a v => Sys2Proof.Machine.execDwr a v s
  | .rtctick => Sys2Proof.Machine.execRtctick s
  | .dactick => Sys2Proof.Machine.execDactick s
  | .uartrx b => Sys2Proof.Machine.execUartrx b s
  | .assertSource k => Sys2Proof.Machine.execAssert k s
  | .hret k => Sys2Proof.Machine.execHret k s

end Sys2Proof.Machine
end

