-- ==== Sys2Proof/Machine/Arbiter.lean ====
section
/-! DEFINITION. The arbiter: the enabled steps, the choice among them, and what granting one does (R230); where a
command stands when it is the next to be granted. -/

namespace Sys2Proof.Machine

/-- The requesters that have a command waiting, each once, in the order their head commands arrived. -/
def requesters : List Request → List Origin
  | [] => []
  | r :: l => r.origin :: (requesters l).filter fun o => o != r.origin

/-- The head command of a requester, and the queues without it. -/
def takeHead (o : Origin) : List Request → Option (Command × List Request)
  | [] => none
  | r :: l =>
    if r.origin = o then some (r.cmd, l)
    else
      match takeHead o l with
      | some (cmd, rest) => some (cmd, r :: rest)
      | none => none

/-- The requester's head command may be granted: a hook's only while its loop is in a call (R230), else it waits (R19).
`INT` and `OBS` have no port (log 21). -/
def State.admits (s : State) (o : Origin) : Bool :=
  match o with
  | .fw _ => true
  | .dbg => true
  | .clk => true
  | .uartb => true
  | .int => true
  | .hook g => (s.loopOf g).inCall
  | .obs _ => true

/-- The enabled steps (R230): none while `FAULT ≠ None`. -/
def enabledTurns (s : State) : List Turn :=
  if s.fault = none then
    ((requesters s.inbox).filter s.admits).map .request
      ++ (Group.all.filter (wakeEnabled s)).map .wake
      ++ (Group.all.filter (scanEnabled s)).map .scan
  else []

/-- The arbiter's choice: the grant chosen in advance if there is one and it is enabled, else a free choice among the
enabled steps (R230, U14; log 6). -/
def chooseTurn (c : Config) (s : State) : Option Turn :=
  match s.sched with
  | t :: _ => if t ∈ enabledTurns s then some t else pickAt (enabledTurns s) (c.freeTurn s.draws)
  | [] => pickAt (enabledTurns s) (c.freeTurn s.draws)

/-- A choice has been made: the advance choice is used up, and the next free choice is another one. -/
def State.drawn (s : State) : State := { s with sched := s.sched.tail, draws := s.draws + 1 }

/-- The command leaves its queue and its origin is that of its port (R80, R230). -/
def State.accept (s : State) (o : Origin) (rest : List Request) : State := { s with origin := o, inbox := rest }

/-- A granted command runs: an encoding that is no instruction is answered `ERR_ILLEGAL` (R87, R89). -/
def runCommand (cmd : Command) (s : State) : Host.Outcome State Fault Refusal :=
  match decode cmd with
  | .ok i => exec i s
  | .error _ => .next (illegal s)

/-- What granting a step does. -/
def runTurn (t : Turn) (s : State) : Host.Outcome State Fault Refusal :=
  match t with
  | .request o =>
    match takeHead o s.inbox with
    | some (cmd, rest) => runCommand cmd (s.accept o rest)
    | none => .next s
  | .wake g => .next (wakeOn Config.current g s)
  | .scan g => .next (scanOn Config.current g s)

/-- One grant of the arbiter. With no step enabled and no fault, every agent waits: a hold, not a fault (R19; log 7). A
faulted machine takes no step (R214; log 8). -/
def arbiterStep (s : State) : Host.Outcome State Fault Refusal :=
  match s.fault with
  | some .reentrant => .fault .reentrant
  | none =>
    match chooseTurn Config.current s with
    | some t => runTurn t s.drawn
    | none => .next s

/-! ## Placing a command -/

/-- An origin that may issue the command (R85); `FW(0)` for one that is no instruction (log 11). -/
def legalOrigin (cmd : Command) : Origin :=
  match decode cmd with
  | .ok (.rd _) => .fw 0
  | .ok (.wr _ _) => .fw 0
  | .ok (.mand _ _) => .fw 0
  | .ok (.mor _ _) => .fw 0
  | .ok (.mxor _ _) => .fw 0
  | .ok (.setrobs _ _ _) => .fw 0
  | .ok (.setwobsGpioIn _ _) => .fw 0
  | .ok (.setwobsExternal _ _ _) => .fw 0
  | .ok (.drd _) => .fw 0
  | .ok (.dwr _ _) => .fw 0
  | .ok .rtctick => .clk
  | .ok .dactick => .clk
  | .ok (.uartrx _) => .uartb
  | .ok (.assertSource _) => .int
  | .ok (.hret k) =>
    match Source.ofAux k with
    | some src => .hook src.group
    | none => .fw 0
  | .error _ => .fw 0

/-- A hook return is granted during the call it ends: `LOOP[group(k)] = CALL(k)` (R230; log 11). -/
def enterHookFor (cmd : Command) (s : State) : State :=
  match decode cmd with
  | .ok (.hret k) =>
    match Source.ofAux k with
    | some src => enterHook src s
    | none => s
  | _ => s

/-- The command stands at the head of the queue of a port that may issue it, and the arbiter has chosen that port. -/
def State.placeCommand (s : State) (cmd : Command) : State :=
  { enterHookFor cmd s with
    inbox := ⟨legalOrigin cmd, cmd⟩ :: s.inbox
    sched := .request (legalOrigin cmd) :: s.sched }

end Sys2Proof.Machine
end

