-- ==== Sys2Proof/Machine/Step.lean ====
section
/-! DEFINITION. One step of the machine, and where it takes its next instruction from. -/

namespace Sys2Proof.Machine

/-- One step: one grant of the arbiter (R230). The block has no program counter and fetches no instruction (R44, R64);
the commands come from the request ports. -/
def step (s : State) : Host.Outcome State Fault Refusal := arbiterStep s

/-- The state in which the very next step runs the command whose low `nbits` bits are those of `w` (log 11). -/
def State.withFetchWord (s : State) (nbits w : Nat) : State :=
  match Command.ofTableWord nbits w with
  | some cmd => s.placeCommand cmd
  | none => s

end Sys2Proof.Machine
end

