-- ==== Sys2Proof/Machine/Facade.lean ====
section
/-! DEFINITION. The peripheral façades (44_peripheral_context.md): surrounding software that validates a selector and
issues bus commands. They are specified as context (R5): what is here is the commands each one issues and the value a
getter computes, not an agent of the block (log 19). -/

namespace Sys2Proof.Machine

/-- The direction argument of `PinCfg` (R182). -/
inductive PinDir where
  | output | input
  deriving DecidableEq, Repr

/-- A façade operation with its selectors as the caller gives them: a port number (A = 0 to D = 3, any other number
names no port) and a pin number (R181). -/
inductive FacadeOp where
  | pinCfg (port : Nat) (pin : Int) (dir : PinDir)
  | pinSet (port : Nat) (pin : Int)
  | pinClear (port : Nat) (pin : Int)
  | pinToggle (port : Nat) (pin : Int)
  | intEnable (port : Nat) (pin : Int)
  | intDisable (port : Nat) (pin : Int)
  | timerFreqGet
  | pwmDutyGet
  deriving DecidableEq, Repr

/-- R181: a port of the four, and a pin from 0 to 31. -/
def facadeSelector (port : Nat) (pin : Int) : Option (Port × Nat) :=
  match Port.ofIndex port with
  | some p => if 0 ≤ pin ∧ pin ≤ 31 then some (p, pin.toNat) else none
  | none => none

/-- An invalid selector issues no command and reports `ERR_INVALID_SELECTOR`; a valid one issues exactly one
(R180). -/
def facadePinCommand (port : Nat) (pin : Int) (f : Port → Nat → Instr) : Except (BitVec 8) (List Instr) :=
  match facadeSelector port pin with
  | some (p, n) => .ok [f p n]
  | none => .error errInvalidSelector

/-- The commands a façade operation issues (R96, R182 to R189). `PinCfg` takes 1 as output (D39). -/
def facadeCommands (c : Config) : FacadeOp → Except (BitVec 8) (List Instr)
  | .pinCfg port pin .output => facadePinCommand port pin fun p n => .mor (c.addr (.gpioCtrl p)) (bit n)
  | .pinCfg port pin .input => facadePinCommand port pin fun p n => .mand (c.addr (.gpioCtrl p)) (~~~ bit n)
  | .pinSet port pin => facadePinCommand port pin fun p n => .mor (c.addr (.gpioOut p)) (bit n)
  | .pinClear port pin => facadePinCommand port pin fun p n => .mand (c.addr (.gpioOut p)) (~~~ bit n)
  | .pinToggle port pin => facadePinCommand port pin fun p n => .mxor (c.addr (.gpioOut p)) (bit n)
  | .intEnable port pin => facadePinCommand port pin fun p n => .mor (c.addr (.gpioInt p)) (bit n)
  | .intDisable port pin => facadePinCommand port pin fun p n => .mand (c.addr (.gpioInt p)) (~~~ bit n)
  | .timerFreqGet => .ok [.rd (c.addr .timerCtrl), .rd (c.addr .timerTop)]
  | .pwmDutyGet => .ok [.rd (c.addr .timerCmp), .rd (c.addr .timerTop)]

/-- `TimerFreqGet` from the two values read: floor division at each step, 0 when the prescaler or TOP is 0 (R188). -/
def timerFreq (ctrl top : Word) : Nat :=
  let presc := (timerPrescaler ctrl).toNat
  if presc = 0 ∨ top.toNat = 0 then 0 else 16000000 / presc / top.toNat

/-- `PWMDutyGet` from the two values read: the exact product, floor division, no clamp, 0 when TOP is 0 (R189). -/
def pwmDuty (cmp top : Word) : Nat := if top.toNat = 0 then 0 else 100 * cmp.toNat / top.toNat

/-- The value a getter returns, from the data of its two responses in order. -/
def facadeValue : FacadeOp → List Word → Option Nat
  | .timerFreqGet, [ctrl, top] => some (timerFreq ctrl top)
  | .pwmDutyGet, [cmp, top] => some (pwmDuty cmp top)
  | _, _ => none

/-- The pseudo-operation `ACK k` (R143): `MAND PEND, ~(1<<k)`. -/
def ackCommand (c : Config) (k : Source) : Instr := .mand (c.addr .pend) (~~~ k.bit)

/-- The pseudo-operation `MemoryRead a` (R96). -/
def memoryReadCommand (a : Addr) : Instr := .drd a

/-- The pseudo-operation `MemoryWrite a, v` (R96). -/
def memoryWriteCommand (a : Addr) (v : Word) : Instr := .dwr a v

end Sys2Proof.Machine
end

