-- ==== Sys2Proof/Machine/HostPort.lean ====
section
/-! DEFINITION. What the outside world can do to the block between two steps (R276): the reset event, presenting a
command at an external request port, and a façade operation on behalf of a firmware thread. -/

namespace Sys2Proof.Machine

/-- The external request ports (R14, R276). There is none for the origins `INT` and `OBS` (log 21). -/
inductive ExternalPort where
  | fw (i : Nat)
  | dbg
  | clk
  | uartb
  | hook (g : Group)
  deriving DecidableEq, Repr

/-- The origin the block infers from a port (R80). -/
def ExternalPort.origin : ExternalPort → Origin
  | .fw i => .fw i
  | .dbg => .dbg
  | .clk => .clk
  | .uartb => .uartb
  | .hook g => .hook g

/-- An input of the outside world. It lands between transactions, never inside one (R54). -/
inductive HostInput where
  | reset
  | present (p : ExternalPort) (cmd : Command)
  | facade (p : ExternalPort) (op : FacadeOp)
  deriving DecidableEq, Repr

/-- A command joins the queue of its port, behind those that wait there. -/
def State.enqueue (s : State) (o : Origin) (cmd : Command) : State := { s with inbox := s.inbox ++ [⟨o, cmd⟩] }

/-- A command that is not accepted is answered at once: its checks are those of a granted one, and one of them fails
(R89, R213). -/
def State.refuse (s : State) (o : Origin) (cmd : Command) : State :=
  match runCommand cmd { s with origin := o } with
  | .next t => t
  | .fault _ => s
  | .refused _ => s

/-- Presenting a command at a port. One of a hook is accepted only during a call of its group (R213; log 10). A faulted
block answers nothing (R214): there the command waits. -/
def State.present (s : State) (o : Origin) (cmd : Command) : State :=
  if s.fault = none ∧ s.admits o = false then s.refuse o cmd else s.enqueue o cmd

/-- Commands join the queue of one port in their order. -/
def State.presentAll (s : State) (o : Origin) : List Instr → State
  | [] => s
  | i :: l => (s.present o (encode i)).presentAll o l

/-- What an input does (R260, R276). An invalid façade selector leaves the bus untouched (R180). -/
def hostInput (c : Config) (x : HostInput) (s : State) : State :=
  match x with
  | .reset => resetOn c
  | .present p cmd => s.present p.origin cmd
  | .facade p op =>
    match facadeCommands c op with
    | .ok l => s.presentAll p.origin l
    | .error _ => s

end Sys2Proof.Machine
end

