-- ==== Sys2Proof/Safety.lean ====
section
/-! DEFINITION. The terms claims are stated in: the invariant of the state, a run that has not faulted, the end of a run,
the launch premise, and runs that are fair to every enabled step. -/

namespace Sys2Proof.Machine

/-- The canonical form of the three maps. -/
structure State.MapsWf (s : State) : Prop where
  cells : s.cells.wf
  robs : assocSorted s.robs
  wobs : assocSorted s.wobs

/-- What holds of every state the block can be in between two transactions. -/
structure State.Inv (c : Config) (s : State) : Prop where
  /-- Equal maps are equal data. -/
  maps : s.MapsWf
  /-- `SNAP[g]` holds bits of the group only (R219, R221). -/
  snapMasked : ∀ g, s.snapOf g &&& ~~~ g.mask = 0
  /-- A loop calls hooks of its own group only (R39). -/
  callInGroup : ∀ g k, s.loopOf g = .call k → k.group = g
  /-- `ACTIVE` is empty between transactions (R41). -/
  idle : s.active = []
  /-- `HIST` has `DAC_HIST_LEN` entries (R43). -/
  histLen : s.hist.length = c.dacHistLen
  /-- `0 ≤ WIDX < DAC_HIST_LEN` (R43). -/
  widxBound : s.widx < c.dacHistLen

/-- The origins that R85 and R213 let issue the bus operations: firmware, debug, an observer, and a hook that is in
progress. -/
def State.BusOrigin (s : State) : Prop :=
  (∃ i, s.origin = .fw i) ∨ s.origin = .dbg ∨ (∃ g k, s.origin = .hook g ∧ s.loopOf g = .call k)
    ∨ ∃ a, s.origin = .obs a

/-- The origin table of R85, with R213 for the bus operations of a hook. HRET has its own check of the call (R88). -/
def OriginAllowed (s : State) : Instr → Prop
  | .rd _ => s.BusOrigin
  | .wr _ _ => s.BusOrigin
  | .mand _ _ => s.BusOrigin
  | .mor _ _ => s.BusOrigin
  | .mxor _ _ => s.BusOrigin
  | .setrobs _ _ _ => s.BusOrigin
  | .setwobsGpioIn _ _ => s.BusOrigin
  | .setwobsExternal _ _ _ => s.BusOrigin
  | .drd _ => s.BusOrigin
  | .dwr _ _ => s.BusOrigin
  | .rtctick => s.origin = .clk
  | .dactick => s.origin = .clk
  | .uartrx _ => s.origin = .uartb
  | .assertSource _ => s.origin = .int
  | .hret k => ∃ src, Source.ofAux k = some src ∧ s.origin = .hook src.group

/-- No observer watches the address, in either direction. -/
def State.Unobserved (s : State) (a : Addr) : Prop := s.robsAt a = none ∧ s.wobsAt a = none

/-- The AUX constraints of R86, and that of R87 on the data of `SETWOBS GPIO_IN`. -/
def AuxLegal (c : Command) : Prop :=
  match c.op.toNat with
  | 0x5 => 0x80 ≤ c.aux.toNat
  | 0x6 => (c.aux = 0x01 ∧ c.data.toNat ≤ 3) ∨ 0x80 ≤ c.aux.toNat
  | 0xC => c.aux.toNat ∈ [0, 1, 2, 3, 14, 16, 23]
  | 0xD => c.aux.toNat ∈ [0, 1, 2, 3, 14, 16, 23]
  | _ => c.aux = 0

/-- A claim about a run takes this of its end as a premise (R216). -/
def State.Unfaulted (s : State) : Prop := s.fault = none

/-- The end of a run: the block is quiescent without a fault (R275). -/
def State.RunOver (s : State) : Prop :=
  s.inbox = [] ∧ (∀ g, s.loopOf g = .wait ∧ s.sigOf g = 0) ∧ s.fault = none

/-- The launch premise (R277), under the configuration of this block. -/
def CleanReset (s : State) : Prop := s = State.reset

/-- The states the block can come to, whatever the outside world presents and however the arbiter chooses. -/
inductive Reachable : State → Prop where
  | reset : Reachable State.reset
  | step {s t : State} : Reachable s → step s = .next t → Reachable t
  | input {s : State} (x : HostInput) : Reachable s → Reachable (hostInput Config.current x s)
  | schedule {s : State} (l : List Turn) : Reachable s → Reachable { s with sched := l }

/-- At position n the arbiter grants t. -/
def GrantedAt (σ : Nat → State) (n : Nat) (t : Turn) : Prop :=
  chooseTurn Config.current (σ n) = some t ∧ step (σ n) = .next (σ (n + 1))

/-- A run without reset: each position follows by a step of the machine or by the outside world, which may present
commands and choose grants. -/
def IsRun (σ : Nat → State) : Prop :=
  ∀ n, step (σ n) = .next (σ (n + 1))
    ∨ (∃ x : HostInput, x ≠ .reset ∧ σ (n + 1) = hostInput Config.current x (σ n))
    ∨ ∃ l : List Turn, σ (n + 1) = { σ n with sched := l }

/-- Weak fairness, which R230 assumes for liveness claims only: a step that stays enabled is eventually taken. -/
def WeaklyFair (σ : Nat → State) : Prop :=
  ∀ t n, (∀ m, n ≤ m → t ∈ enabledTurns (σ m)) → ∃ m, n ≤ m ∧ GrantedAt σ m t

/-- Every hook that is called returns (R231). -/
def HooksReturn (σ : Nat → State) : Prop :=
  ∀ n g k, (σ n).loopOf g = .call k → ∃ m, n ≤ m ∧ (σ m).loopOf g ≠ .call k

end Sys2Proof.Machine
end

