-- ==== Sys2Proof/Certificates/Slice0/Obligations.lean ====
section
/-! DEFINITION. The statements for the provers. Each docstring names the rule of spec/ that the statement formalises. -/

open Sys2Proof Sys2Proof.Machine

/-! ## Encoding -/

/-- R91: the `hdr` words of the `ASSERT` and `HRET` forms, at every `addr` and `data`. -/
def Obligations.AssertAndHretWordsDecode : Prop :=
  ∀ (a : Addr) (d : Word),
    (decode ⟨0x000C, a, d⟩ = .ok (.assertSource 0) ∧ decode ⟨0x000D, a, d⟩ = .ok (.hret 0)) ∧
    (decode ⟨0x010C, a, d⟩ = .ok (.assertSource 1) ∧ decode ⟨0x010D, a, d⟩ = .ok (.hret 1)) ∧
    (decode ⟨0x020C, a, d⟩ = .ok (.assertSource 2) ∧ decode ⟨0x020D, a, d⟩ = .ok (.hret 2)) ∧
    (decode ⟨0x030C, a, d⟩ = .ok (.assertSource 3) ∧ decode ⟨0x030D, a, d⟩ = .ok (.hret 3)) ∧
    (decode ⟨0x0E0C, a, d⟩ = .ok (.assertSource 14) ∧ decode ⟨0x0E0D, a, d⟩ = .ok (.hret 14)) ∧
    (decode ⟨0x100C, a, d⟩ = .ok (.assertSource 16) ∧ decode ⟨0x100D, a, d⟩ = .ok (.hret 16)) ∧
    (decode ⟨0x170C, a, d⟩ = .ok (.assertSource 23) ∧ decode ⟨0x170D, a, d⟩ = .ok (.hret 23))

/-- A word of each other family, written out from the patterns of R90. -/
def Obligations.FamilyWordsDecode : Prop :=
  decode ⟨0b0000000000000000, 0x5000, 9⟩ = .ok (.rd 0x5000) ∧
  decode ⟨0b0000000000000001, 0x5000, 9⟩ = .ok (.wr 0x5000 9) ∧
  decode ⟨0b0000000000000100, 0x5000, 9⟩ = .ok (.mxor 0x5000 9) ∧
  decode ⟨0b1000010100000101, 0x5000, 9⟩ = .ok (.setrobs 0x5000 5 9) ∧
  decode ⟨0b0000000100000110, 0x5000, 3⟩ = .ok (.setwobsGpioIn 0x5000 3) ∧
  decode ⟨0b1111111100000110, 0x5000, 9⟩ = .ok (.setwobsExternal 0x5000 0x7F 9) ∧
  decode ⟨0b0000000000001000, 0x5000, 9⟩ = .ok (.dwr 0x5000 9) ∧
  decode ⟨0b0000000000001011, 0x5000, 0x141⟩ = .ok (.uartrx 0x41)

/-- R80 to R86: no bit of a well-formed instruction's encoding is dropped. -/
def Obligations.DecodeOfEncode : Prop :=
  ∀ i : Instr, i.wellFormed = true → decode (encode i) = .ok i

/-- R80, R92: every `hdr` has one meaning, and a decoded instruction is well formed. -/
def Obligations.DecodedHeaderIsTheEncoded : Prop :=
  ∀ (c : Command) (i : Instr), decode c = .ok i → i.wellFormed = true ∧ (encode i).hdr = c.hdr

/-- R90: a command is an instruction of a row exactly when its `hdr` matches the row, an `ASSERT` or `HRET` names a
source bit, and a `SETWOBS GPIO_IN` a port index. -/
def Obligations.DecodeAcceptsTheRows : Prop :=
  ∀ (c : Command) (m : String),
    (∃ i, decode c = .ok i ∧ i.mnemonic = m) ↔
      ∃ r ∈ opcodeRows, r.mnemonic = m ∧ r.matches c.hdr = true ∧
        (m = "ASSERT" ∨ m = "HRET" → c.aux.toNat ∈ [0, 1, 2, 3, 14, 16, 23]) ∧
        (m = "SETWOBS__GPIO_IN" → c.data.toNat ≤ 3)

/-- R90: the rows do not overlap. -/
def Obligations.OpcodeRowsDoNotOverlap : Prop :=
  ∀ (hdr : BitVec 16) (r r' : OpcodeRow), r ∈ opcodeRows → r' ∈ opcodeRows →
    r.matches hdr = true → r'.matches hdr = true → r = r'

/-- R82: the fields a command does not use are ignored, and `RSV` never is. -/
def Obligations.UnusedFieldsAreIgnored : Prop :=
  (∀ (h : BitVec 16) (a a' : Addr) (d : Word), (Command.mk h a d).op.toNat ∈ [0x9, 0xA, 0xB, 0xC, 0xD] →
    decode ⟨h, a, d⟩ = decode ⟨h, a', d⟩) ∧
  (∀ (h : BitVec 16) (a : Addr) (d d' : Word), (Command.mk h a d).op.toNat ∈ [0x0, 0x7, 0x9, 0xA, 0xC, 0xD] →
    decode ⟨h, a, d⟩ = decode ⟨h, a, d'⟩) ∧
  (∀ (h : BitVec 16) (a : Addr) (d d' : Word), (Command.mk h a d).op.toNat = 0xB →
    d.extractLsb' 0 8 = d'.extractLsb' 0 8 → decode ⟨h, a, d⟩ = decode ⟨h, a, d'⟩) ∧
  (∀ c : Command, c.rsv ≠ 0 → ∃ e, decode c = .error e)

/-- R86, R87: a reserved `OP`, a nonzero `RSV` or an `AUX` outside the operation's row is answered `ERR_ILLEGAL` with no
other effect, and nothing else is illegal. -/
def Obligations.IllegalEncodingsAreAnswered : Prop :=
  ∀ (c : Command) (s : State),
    (c.op.toNat ∈ [0xE, 0xF] ∨ c.rsv ≠ 0 ∨ ¬ AuxLegal c → runCommand c s = .next (s.respond ⟨false, 0x01, 0⟩)) ∧
    (c.op.toNat ∉ [0xE, 0xF] → c.rsv = 0 → AuxLegal c → ∃ i, decode c = .ok i)

/-- R89: the order of the checks, and that a failed check has no effect but the answer. -/
def Obligations.ChecksComeInOrder : Prop :=
  ∀ (c : Command) (s : State),
    (0xE ≤ c.op.toNat → decode c = .error .reservedOp) ∧
    (c.op.toNat < 0xE → c.rsv ≠ 0 → decode c = .error .reservedBits) ∧
    (c.op.toNat < 0xE → c.rsv = 0 → ¬ AuxLegal c → decode c = .error .badAux ∨ decode c = .error .badParam) ∧
    (∀ e, decode c = .error e → runCommand c s = .next (s.respond ⟨false, 0x01, 0⟩)) ∧
    (∀ i, decode c = .ok i → ¬ OriginAllowed s i → runCommand c s = .next (s.respond ⟨false, 0x02, 0⟩)) ∧
    (∀ k src, decode c = .ok (.hret k) → Source.ofAux k = some src → s.origin = .hook src.group →
      s.loopOf src.group ≠ .call src → runCommand c s = .next (s.respond ⟨false, 0x04, 0⟩))

/-! ## Steps, the arbiter, errors and the fault -/

/-- R100, R230: the step that grants a requester runs the instruction its head command decodes to, with the command off
its queue and its port as the origin. -/
def Obligations.StepRunsTheDecodedInstruction : Prop :=
  ∀ (s : State) (o : Origin) (cmd : Command) (rest : List Request) (i : Instr),
    s.fault = none → chooseTurn Config.current s = some (.request o) → takeHead o s.inbox = some (cmd, rest) →
    decode cmd = .ok i →
    step s = exec i { s with origin := o, inbox := rest, sched := s.sched.tail, draws := s.draws + 1 }

/-- R87 at the level of a step: a granted command that is no instruction leaves its queue and is answered. -/
def Obligations.StepAnswersAnIllegalCommand : Prop :=
  ∀ (s : State) (o : Origin) (cmd : Command) (rest : List Request) (e : DecodeError),
    s.fault = none → chooseTurn Config.current s = some (.request o) → takeHead o s.inbox = some (cmd, rest) →
    decode cmd = .error e →
    step s = .next { s with origin := o, inbox := rest, sched := s.sched.tail, draws := s.draws + 1,
                            resp := some (o, ⟨false, 0x01, 0⟩) }

/-- The steps of dispatch loops, granted: what R219 and R221 do, and nothing else. -/
def Obligations.StepRunsTheChosenLoop : Prop :=
  ∀ (s : State) (g : Group), s.fault = none →
    (chooseTurn Config.current s = some (.wake g) →
      step s = .next (wakeOn Config.current g { s with sched := s.sched.tail, draws := s.draws + 1 })) ∧
    (chooseTurn Config.current s = some (.scan g) →
      step s = .next (scanOn Config.current g { s with sched := s.sched.tail, draws := s.draws + 1 }))

/-- R214, R230: with `FAULT` set no step is enabled, and the model stops with that fault (log 8). -/
def Obligations.FaultedMachineTakesNoStep : Prop :=
  ∀ s : State, s.fault ≠ none → enabledTurns s = [] ∧ step s = .fault .reentrant

/-- R230: exactly one enabled step is taken; with none enabled the machine holds (log 7). -/
def Obligations.StepTakesOneEnabledTurn : Prop :=
  ∀ s : State, s.fault = none →
    (enabledTurns s = [] ∧ step s = .next s) ∨
    ∃ t ∈ enabledTurns s, step s = runTurn t { s with sched := s.sched.tail, draws := s.draws + 1 }

/-- R230: the choice is free. Whichever step is enabled, the arbiter can take it (log 6). -/
def Obligations.EveryEnabledTurnCanBeTaken : Prop :=
  ∀ (s : State) (t : Turn) (l : List Turn), t ∈ enabledTurns s →
    step { s with sched := t :: l } = runTurn t { s with sched := l, draws := s.draws + 1 }

/-- R230, R219, R221: which steps are enabled. A command that waits at `HOOK(g)` is one only while g is in a call. -/
def Obligations.EnabledTurns : Prop :=
  ∀ s : State,
    (∀ o, .request o ∈ enabledTurns s ↔
      s.fault = none ∧ (∃ r ∈ s.inbox, r.origin = o) ∧ ∀ g, o = .hook g → ∃ k, s.loopOf g = .call k) ∧
    (∀ g, .wake g ∈ enabledTurns s ↔ s.fault = none ∧ s.loopOf g = .wait ∧ s.sigOf g ≠ 0) ∧
    (∀ g, .scan g ∈ enabledTurns s ↔ s.fault = none ∧ s.loopOf g = .scan)

/-- R230, R276: a requester's head is its oldest command, and taking it leaves the others in their order; a command
presented at a port, and those of a façade in their order, join the queue behind those that wait, and nothing else changes.
A hook's command is queued during a call of its group (R213), and any command in a faulted block. -/
def Obligations.QueuesAreFirstInFirstOut : Prop :=
  (∀ (o : Origin) (l : List Request), takeHead o l = none ↔ ∀ r ∈ l, r.origin ≠ o) ∧
  (∀ (o : Origin) (older newer : List Request) (cmd : Command), (∀ r ∈ older, r.origin ≠ o) →
    takeHead o (older ++ ⟨o, cmd⟩ :: newer) = some (cmd, older ++ newer)) ∧
  ∀ (p : ExternalPort) (s : State), s.fault ≠ none ∨ (∀ g, p = .hook g → ∃ k, s.loopOf g = .call k) →
    (∀ cmd, hostInput Config.current (.present p cmd) s = { s with inbox := s.inbox ++ [⟨p.origin, cmd⟩] }) ∧
    (∀ op l, facadeCommands Config.current op = .ok l → hostInput Config.current (.facade p op) s =
      { s with inbox := s.inbox ++ l.map fun i => ⟨p.origin, encode i⟩ })

/-- The model's own (log 11): a placed command is the next to run, at a port that may issue it, and nothing but the
queues, the advance choice and, for a hook return, the call it ends has changed. -/
def Obligations.PlacedCommandRunsNext : Prop :=
  ∀ (s : State) (nbits w : Nat) (i : Instr), s.fault = none → decodeTableWord nbits w = some i →
    ∃ t, step (s.withFetchWord nbits w) = exec i t ∧ OriginAllowed t i ∧
      t.cells = s.cells ∧ t.robs = s.robs ∧ t.wobs = s.wobs ∧ t.sig = s.sig ∧ t.snap = s.snap ∧
      t.active = s.active ∧ t.fault = none ∧ t.hist = s.hist ∧ t.widx = s.widx ∧ t.inbox = s.inbox ∧
      ((∀ k, i ≠ .hret k) → t.loop = s.loop) ∧
      ∀ k src, i = .hret k → Source.ofAux k = some src →
        t.loopOf src.group = .call src ∧ ∀ g, g ≠ src.group → t.loopOf g = s.loopOf g

/-- The model's own (log 8): every command ends in a next state, whatever the state, also where its cascade raises the
fault. R19 lists the fault as an outcome of its own; in the model the raise is a next state with `FAULT` set (R214), and the
block stands still from the next step on. A command whose cascade faulted is the one that answers nobody (log 3); every
other leaves `FAULT` as it was. -/
def Obligations.EveryCommandAnswersANextState : Prop :=
  ∀ (i : Instr) (s : State), ∃ t, exec i s = .next t ∧
    (t.resp = none → t.fault = some .reentrant) ∧ (t.resp ≠ none → t.fault = s.fault)

/-- R213: a hook's command outside a call of its group, and a command of the clock or of the bridge outside its row. For
an HRET of its own group R88 and R224 give another code. Such a command of a hook is answered when it is presented
(log 10). -/
def Obligations.HookClockAndBridgeAreBound : Prop :=
  ∀ (i : Instr) (s : State), i.wellFormed = true →
    (∀ g, (∀ k, s.loopOf g ≠ .call k) →
      ((∀ k src, i = .hret k → Source.ofAux k = some src → src.group ≠ g) →
        (s.origin = .hook g → exec i s = .next (s.respond ⟨false, 0x02, 0⟩)) ∧
        ∀ cmd, s.fault = none → decode cmd = .ok i → hostInput Config.current (.present (.hook g) cmd) s =
          { s with origin := .hook g, resp := some (.hook g, ⟨false, 0x02, 0⟩) }) ∧
      (∀ k src, i = .hret k → Source.ofAux k = some src → src.group = g →
        (s.origin = .hook g → exec i s = .next (s.respond ⟨false, 0x04, 0⟩)) ∧
        ∀ cmd, s.fault = none → decode cmd = .ok i → hostInput Config.current (.present (.hook g) cmd) s =
          { s with origin := .hook g, resp := some (.hook g, ⟨false, 0x04, 0⟩) }) ∧
      ∀ cmd e, s.fault = none → decode cmd = .error e → hostInput Config.current (.present (.hook g) cmd) s =
        { s with origin := .hook g, resp := some (.hook g, ⟨false, 0x01, 0⟩) }) ∧
    (s.origin = .clk → i ≠ .rtctick → i ≠ .dactick → exec i s = .next (s.respond ⟨false, 0x02, 0⟩)) ∧
    (s.origin = .uartb → (∀ b, i ≠ .uartrx b) → exec i s = .next (s.respond ⟨false, 0x02, 0⟩))

/-- R85, R88: an origin outside the operation's row is answered `ERR_ORIGIN`; nothing else changes. -/
def Obligations.OriginOutsideTheRowFails : Prop :=
  ∀ (i : Instr) (s : State), i.wellFormed = true → ¬ OriginAllowed s i →
    exec i s = .next (s.respond ⟨false, 0x02, 0⟩)

/-- R211: a command that fails answers `ok = 0` with a code and `rdata = 0`, and changes no state. -/
def Obligations.FailedCommandChangesNothing : Prop :=
  ∀ (i : Instr) (s t : State) (o : Origin) (r : Response),
    exec i s = .next t → t.resp = some (o, r) → r.ok = false →
    r.rdata = 0 ∧ r.code ∈ [0x01, 0x02, 0x04] ∧ o = s.origin ∧ t = { s with resp := some (o, r) }

/-- R214, R41: a command leaves `FAULT` clear and answers its requester, or records the fault and answers nobody (log 3);
`ACTIVE` is empty in either case unless the command was refused. -/
def Obligations.CommandEndsAnsweredOrFaulted : Prop :=
  ∀ (i : Instr) (s : State), s.fault = none → ∃ t, exec i s = .next t ∧
    ((t.fault = none ∧ ∃ r, t.resp = some (s.origin, r)) ∨
     (t.fault = some .reentrant ∧ t.resp = none ∧ enabledTurns t = [])) ∧
    (s.active = [] → t.active = [])

/-! ## Bus operations -/

/-- R104, R111: RD and DRD answer the value sampled before the read observer ran, whatever the observer did; with no
read observer nothing but the response changes. If the observer faults, nobody is answered (R214; log 3): that clause is
over every configuration, since what an observer does is open. -/
def Obligations.ReadsAnswerTheSampledValue : Prop :=
  ∀ (a : Addr) (s : State), s.BusOrigin → ∀ i ∈ [Instr.rd a, Instr.drd a],
    (∀ t, fireRead (cascade Config.current) a (s.cell a) s.clearActive = .ok () t →
      exec i s = .next (t.clearActive.respond ⟨true, 0x00, s.cell a⟩)) ∧
    (s.robsAt a = none → exec i s = .next (s.clearActive.respond ⟨true, 0x00, s.cell a⟩)) ∧
    (∀ c t, fireRead (cascade c) a (s.cell a) s.clearActive = .halt t →
      rdOn c a s = t.clearActive.noResponse ∧ drdOn c a s = t.clearActive.noResponse)

/-- R105, R112: WR and DWR store and fire only if the value changes; the observer is handed the old and the new
value. -/
def Obligations.WritesActOnlyOnAChange : Prop :=
  ∀ (a : Addr) (v : Word) (s : State), s.BusOrigin → ∀ i ∈ [Instr.wr a v, Instr.dwr a v],
    (v = s.cell a → exec i s = .next (s.clearActive.respond ⟨true, 0x00, 0⟩)) ∧
    (v ≠ s.cell a →
      (∀ t, fireWrite (cascade Config.current) a (s.cell a) v (s.clearActive.setCell a v) = .ok () t →
        exec i s = .next (t.clearActive.respond ⟨true, 0x00, 0⟩)) ∧
      (∀ t, fireWrite (cascade Config.current) a (s.cell a) v (s.clearActive.setCell a v) = .halt t →
        exec i s = .next t.clearActive.noResponse) ∧
      (s.wobsAt a = none → exec i s = .next ((s.clearActive.setCell a v).respond ⟨true, 0x00, 0⟩)))

/-- R116, R106, R107, R108: a modify reads, fires the read observer, combines the value it read, and then writes as WR
does; it answers no data. -/
def Obligations.ModifiesReadCombineAndWrite : Prop :=
  ∀ (a : Addr) (imm : Word) (s : State), s.BusOrigin →
    ∀ x ∈ [(Instr.mand a imm, s.cell a &&& imm), (Instr.mor a imm, s.cell a ||| imm),
           (Instr.mxor a imm, s.cell a ^^^ imm)],
    (∀ t, fireRead (cascade Config.current) a (s.cell a) s.clearActive = .ok () t →
      (x.2 = s.cell a → exec x.1 s = .next (t.clearActive.respond ⟨true, 0x00, 0⟩)) ∧
      (x.2 ≠ s.cell a →
        (∀ u, fireWrite (cascade Config.current) a (s.cell a) x.2 (t.setCell a x.2) = .ok () u →
          exec x.1 s = .next (u.clearActive.respond ⟨true, 0x00, 0⟩)) ∧
        (∀ u, fireWrite (cascade Config.current) a (s.cell a) x.2 (t.setCell a x.2) = .halt u →
          exec x.1 s = .next u.clearActive.noResponse))) ∧
    (s.MapsWf → s.Unobserved a →
      exec x.1 s = .next ((s.clearActive.setCell a x.2).respond ⟨true, 0x00, 0⟩)) ∧
    (∀ c t, fireRead (cascade c) a (s.cell a) s.clearActive = .halt t →
      mandOn c a imm s = t.clearActive.noResponse ∧ morOn c a imm s = t.clearActive.noResponse ∧
      mxorOn c a imm s = t.clearActive.noResponse)

/-- R109, R110: registration replaces the slot of one address in one direction, fires nothing and changes no cell; a
port index above 3 is illegal (R87). -/
def Obligations.RegistrationReplacesOneSlot : Prop :=
  ∀ (a : Addr) (h : Handle) (p : Word) (s : State),
    (s.BusOrigin → ∃ t, exec (.setrobs a h p) s = .next t ∧ t.robsAt a = some ⟨h, p⟩ ∧
      (∀ b, b ≠ a → t.robsAt b = s.robsAt b) ∧
      t = { s with robs := t.robs, active := [], resp := some (s.origin, ⟨true, 0x00, 0⟩) }) ∧
    (s.BusOrigin → ∃ t, exec (.setwobsExternal a h p) s = .next t ∧ t.wobsAt a = some (.external ⟨h, p⟩) ∧
      (∀ b, b ≠ a → t.wobsAt b = s.wobsAt b) ∧
      t = { s with wobs := t.wobs, active := [], resp := some (s.origin, ⟨true, 0x00, 0⟩) }) ∧
    (∀ q : Port, p.toNat = q.index → s.BusOrigin → ∃ t, exec (.setwobsGpioIn a p) s = .next t ∧
      t.wobsAt a = some (.gpioIn q) ∧ (∀ b, b ≠ a → t.wobsAt b = s.wobsAt b) ∧
      t = { s with wobs := t.wobs, active := [], resp := some (s.origin, ⟨true, 0x00, 0⟩) }) ∧
    (3 < p.toNat → exec (.setwobsGpioIn a p) s = .next (s.respond ⟨false, 0x01, 0⟩))

/-- R101: the read observer of the address runs with the value read, and without one nothing happens. The same for the
write observer, with the values before and after the store (R102). -/
def Obligations.ObserverFiresWithTheEvent : Prop :=
  ∀ (run : Runner) (a : Addr) (v old : Word) (s : State),
    (s.robsAt a = none → fireRead run a v s = .ok () s) ∧
    (∀ x, s.robsAt a = some x → fireRead run a v s = run a (.external x) (.read v) s) ∧
    (s.wobsAt a = none → fireWrite run a old v s = .ok () s) ∧
    (∀ o, s.wobsAt a = some o → fireWrite run a old v s = run a o (.write old v) s)

/-- The frame of the bus commands in memory (R105 to R108, R104, R109 to R112): where no observer watches the address,
RD, DRD and the registrations leave every cell as it reads, and WR, DWR, MAND, MOR and MXOR every cell but that of their
address; no slot changes but by registration, and no signal and no fault at all. -/
def Obligations.UnobservedAccessFrame : Prop :=
  ∀ (a : Addr) (v : Word) (h : Handle) (s t : State), s.MapsWf → s.Unobserved a →
    (∀ i ∈ [Instr.rd a, .drd a, .setrobs a h v, .setwobsExternal a h v, .setwobsGpioIn a v],
      exec i s = .next t → (∀ b, t.cell b = s.cell b) ∧ t.sig = s.sig ∧ t.fault = s.fault) ∧
    (∀ i ∈ [Instr.rd a, .drd a], exec i s = .next t → t.robs = s.robs ∧ t.wobs = s.wobs) ∧
    (∀ i ∈ [Instr.wr a v, .dwr a v, .mand a v, .mor a v, .mxor a v],
      exec i s = .next t → (∀ b, b ≠ a → t.cell b = s.cell b) ∧ t.robs = s.robs ∧ t.wobs = s.wobs ∧
        t.sig = s.sig ∧ t.fault = s.fault)

/-- The frame of every command, under every observer: only HRET touches `LOOP`, only DACTICK the history, none
`SNAP`, the queues or the arbiter's choices (R114, R143, R224, R190). -/
def Obligations.CommandsLeaveDispatchStateAlone : Prop :=
  ∀ (i : Instr) (s t : State), exec i s = .next t →
    t.snap = s.snap ∧ t.inbox = s.inbox ∧ t.origin = s.origin ∧ t.sched = s.sched ∧ t.draws = s.draws ∧
    ((∀ k, i ≠ .hret k) → t.loop = s.loop) ∧ (i ≠ .dactick → t.hist = s.hist ∧ t.widx = s.widx)

/-- R115: once a slot holds an observer it holds one until reset, through every step and every other input. -/
def Obligations.ObserversStayRegistered : Prop :=
  ∀ (s t : State) (a : Addr),
    step s = .next t ∨ (∃ x : HostInput, x ≠ .reset ∧ hostInput Config.current x s = t) →
    (s.robsAt a ≠ none → t.robsAt a ≠ none) ∧ (s.wobsAt a ≠ none → t.wobsAt a ≠ none)

/-! ## Cascades -/

/-- R103, R214: a nested access to an active address raises the fault and does nothing else; so do the producer's own
nested read and Assert. -/
def Obligations.NestedAccessToAnActiveAddressFaults : Prop :=
  ∀ (run : Runner) (cmd : Command) (a : Addr) (k : Source) (c : Config) (s : State),
    (cmd.op.toNat ≤ 8 → s.isActive cmd.addr = true → nested run cmd s = .halt { s with fault := some .reentrant }) ∧
    (s.isActive a = true → nestedRead run a s = .halt { s with fault := some .reentrant }) ∧
    (s.isActive (c.addr .pend) = true → assertTx c run k s = .halt { s with fault := some .reentrant })

/-- R103, R113: an external observer runs the commands of `ext_obs` in list order, each to its end before the next, in
the same cascade with its own address active, and pops what it pushed; a fault of one stops it there (R214). The premises
hold of every observer a cascade runs. A nested command whose address is not active has the effect of its bus operation,
the write operations firing on a change only; one that does not decode, or whose `OP` is above 0x8, is skipped and the list
goes on (R212). -/
def Obligations.ExternalObserverRunsItsCommands : Prop :=
  (∀ (c : Config) (a : Addr) (x : External) (ev : Event) (s : State),
    (s.active.map Prod.fst).Nodup → s.isActive a = false →
    let commands := c.extObs x.handle x.param ev.dir ev s.cell
    let pushed := { s with active := (a, ev.dir) :: s.active }
    (∀ t, nestedAll (cascade c) commands pushed = .ok () t →
      cascade c a (.external x) ev s = .ok () { t with active := s.active }) ∧
    (∀ t, nestedAll (cascade c) commands pushed = .halt t → cascade c a (.external x) ev s = .halt t)) ∧
  ∀ (run : Runner) (cmd : Command) (l : List Command) (s : State),
    nestedAll run [] s = .ok () s ∧
    (∀ t, nested run cmd s = .ok () t → nestedAll run (cmd :: l) s = nestedAll run l t) ∧
    (∀ t, nested run cmd s = .halt t → nestedAll run (cmd :: l) s = .halt t) ∧
    (8 < cmd.op.toNat ∨ (s.isActive cmd.addr = false ∧ ∃ e, decode cmd = .error e) →
      nestedAll run (cmd :: l) s = nestedAll run l s) ∧
    ∀ (a : Addr) (v : Word) (h : Handle), s.isActive a = false →
      let old := s.cell a
      let store : Word → State → TxResult Unit := fun new t =>
        if new = old then .ok () t else fireWrite run a old new (t.setCell a new)
      (∀ x ∈ [(Instr.rd a, fireRead run a old s), (.drd a, fireRead run a old s),
              (.wr a v, store v s), (.dwr a v, store v s),
              (.mand a v, (fireRead run a old s).bind fun _ t => store (old &&& v) t),
              (.mor a v, (fireRead run a old s).bind fun _ t => store (old ||| v) t),
              (.mxor a v, (fireRead run a old s).bind fun _ t => store (old ^^^ v) t),
              (.setrobs a h v, .ok () (s.setRobs a ⟨h, v⟩)),
              (.setwobsExternal a h v, .ok () (s.setWobs a (.external ⟨h, v⟩)))],
        decode cmd = .ok x.1 → nested run cmd s = x.2) ∧
      (∀ p : Port, v.toNat = p.index → decode cmd = .ok (.setwobsGpioIn a v) →
        nested run cmd s = .ok () (s.setWobs a (.gpioIn p)))

/-- R103: cascades always terminate. The depth the model allows is never what ends one: from a stack of pairwise
different addresses, an observer of an address not on it runs the same at every greater depth. -/
def Obligations.CascadeDepthNeverBinds : Prop :=
  ∀ (c : Config) (n : Nat) (a : Addr) (o : Observer) (ev : Event) (s : State), cascadeDepth ≤ n →
    (s.active.map Prod.fst).Nodup → s.isActive a = false → runObserver c n a o ev s = cascade c a o ev s

/-- R103: RunObserver pops what it pushed, and leaves `FAULT` alone unless it stops the transaction. -/
def Obligations.ObserverRunIsBalanced : Prop :=
  ∀ (c : Config) (a : Addr) (o : Observer) (ev : Event) (s : State),
    (∃ t, cascade c a o ev s = .ok () t ∧ t.active = s.active ∧ t.fault = s.fault) ∨
    (∃ t, cascade c a o ev s = .halt t ∧ t.fault = some .reentrant)

/-! ## Pending register and producers -/

/-- R142: ASSERT from `INT` sets the bit of its source and then releases the signal of its group, saturating, though the
bit was set already; an operand outside `SRC` is illegal. -/
def Obligations.AssertSetsTheBitAndReleasesTheSignal : Prop :=
  ∀ (k : Byte) (s : State),
    (Source.ofAux k = none → exec (.assertSource k) s = .next (s.respond ⟨false, 0x01, 0⟩)) ∧
    (∀ src, Source.ofAux k = some src → s.origin = .int → s.MapsWf → s.Unobserved (Config.current.addr .pend) →
      ∃ t, exec (.assertSource k) s = .next t ∧
        t.reg Config.current .pend = s.reg Config.current .pend ||| bit k.toNat ∧
        (∀ b, b ≠ Config.current.addr .pend → t.cell b = s.cell b) ∧
        (t.sigOf src.group).toNat = min ((s.sigOf src.group).toNat + 1) (2 ^ 32 - 1) ∧
        (∀ g, g ≠ src.group → t.sigOf g = s.sigOf g) ∧
        t = { s with cells := t.cells, sig := t.sig, active := [], resp := some (s.origin, ⟨true, 0x00, 0⟩) }) ∧
    (∀ src, Source.ofAux k = some src → s.origin = .int →
      ∀ t, busModify (cascade Config.current) (Config.current.addr .pend) (fun x => x ||| bit k.toNat) s.clearActive
        = .ok () t →
      exec (.assertSource k) s = .next ((t.releaseSignal src.group).clearActive.respond ⟨true, 0x00, 0⟩))

/-- R145: an injection at a port's IN register under the reset-time producer. One write asserts at most once, and only
if an edge meets an enabled pin; `GPIO_CTRL` plays no part (R146). -/
def Obligations.InjectionAssertsOnAnEnabledEdge : Prop :=
  ∀ (p : Port) (v : Word) (s : State), s.BusOrigin → s.MapsWf →
    s.wobsAt (Config.current.addr (.gpioIn p)) = some (.gpioIn p) →
    s.robsAt (Config.current.addr (.gpioInt p)) = none →
    s.Unobserved (Config.current.addr .pend) → v ≠ s.reg Config.current (.gpioIn p) →
    ∀ i ∈ [Instr.wr (Config.current.addr (.gpioIn p)) v, Instr.dwr (Config.current.addr (.gpioIn p)) v],
    let stored := s.clearActive.setCell (Config.current.addr (.gpioIn p)) v
    let edges := match Config.current.edgePolicy with
      | .any => s.reg Config.current (.gpioIn p) ^^^ v
      | .rising => (s.reg Config.current (.gpioIn p) ^^^ v) &&& v
    (edges &&& s.reg Config.current (.gpioInt p) = 0 → exec i s = .next (stored.respond ⟨true, 0x00, 0⟩)) ∧
    (edges &&& s.reg Config.current (.gpioInt p) ≠ 0 →
      exec i s = .next (((stored.setCell (Config.current.addr .pend)
        (s.reg Config.current .pend ||| bit p.index)).releaseSignal .gpio).respond ⟨true, 0x00, 0⟩))

/-- R147: RTCTICK, where no observer watches the registers it touches. -/
def Obligations.RtcTickCountsAndCompares : Prop :=
  ∀ s : State, s.origin = .clk → s.MapsWf →
    s.robsAt (Config.current.addr .rtcCtrl) = none → s.Unobserved (Config.current.addr .rtcCnt) →
    s.robsAt (Config.current.addr .rtcCmp) = none → s.Unobserved (Config.current.addr .pend) →
    let ctrl := s.reg Config.current .rtcCtrl
    let next := s.reg Config.current .rtcCnt + 1
    let counted := s.clearActive.setCell (Config.current.addr .rtcCnt) next
    (ctrl.getLsbD 0 = false → exec .rtctick s = .next (s.clearActive.respond ⟨true, 0x00, 0⟩)) ∧
    (ctrl.getLsbD 0 = true → ctrl.getLsbD 7 = false ∨ next ≠ s.reg Config.current .rtcCmp →
      exec .rtctick s = .next (counted.respond ⟨true, 0x00, 0⟩)) ∧
    (ctrl.getLsbD 0 = true → ctrl.getLsbD 7 = true → next = s.reg Config.current .rtcCmp →
      exec .rtctick s = .next (((counted.setCell (Config.current.addr .pend)
        (s.reg Config.current .pend ||| bit 14)).releaseSignal .rtc).respond ⟨true, 0x00, 0⟩))

/-- R148: DACTICK, where no observer watches the registers it touches. -/
def Obligations.DacTickAppendsAndAsserts : Prop :=
  ∀ s : State, s.origin = .clk → s.MapsWf →
    s.robsAt (Config.current.addr .dacCtrl) = none → s.robsAt (Config.current.addr .dacData) = none →
    s.Unobserved (Config.current.addr .pend) →
    let ctrl := s.reg Config.current .dacCtrl
    let appended := { s.clearActive with
      hist := s.hist.set s.widx ((s.reg Config.current .dacData).extractLsb' 0 12)
      widx := (s.widx + 1) % Config.current.dacHistLen }
    (ctrl.getLsbD 0 = false → exec .dactick s = .next (s.clearActive.respond ⟨true, 0x00, 0⟩)) ∧
    (ctrl.getLsbD 0 = true → ctrl.getLsbD 7 = false →
      exec .dactick s = .next (appended.respond ⟨true, 0x00, 0⟩)) ∧
    (ctrl.getLsbD 0 = true → ctrl.getLsbD 7 = true →
      exec .dactick s = .next (((appended.setCell (Config.current.addr .pend)
        (s.reg Config.current .pend ||| bit 16)).releaseSignal .dac).respond ⟨true, 0x00, 0⟩))

/-- R149: UARTRX, where no observer watches the registers it touches. The new `UART_STATUS` is the open function of the
old one; the statement holds whatever it is. -/
def Obligations.UartRxDeliversTheByte : Prop :=
  ∀ (b : Byte) (s : State), s.origin = .uartb → s.MapsWf →
    s.wobsAt (Config.current.addr .uartRxData) = none → s.wobsAt (Config.current.addr .uartStatus) = none →
    s.robsAt (Config.current.addr .uartCtrl) = none → s.Unobserved (Config.current.addr .pend) →
    let ctrl := s.reg Config.current .uartCtrl
    let delivered := (s.clearActive.setCell (Config.current.addr .uartRxData) (b.setWidth 32)).setCell
      (Config.current.addr .uartStatus) (Config.current.uartStatusOnRx (s.reg Config.current .uartStatus))
    (ctrl.getLsbD 0 = false ∨ ctrl.getLsbD 7 = false →
      exec (.uartrx b) s = .next (delivered.respond ⟨true, 0x00, 0⟩)) ∧
    (ctrl.getLsbD 0 = true → ctrl.getLsbD 7 = true →
      exec (.uartrx b) s = .next (((delivered.setCell (Config.current.addr .pend)
        (s.reg Config.current .pend ||| bit 23)).releaseSignal .uart).respond ⟨true, 0x00, 0⟩))

/-- R143, R269: `ACK k` clears bit k of `PEND` in one transaction and touches no other bit, no other cell, no signal and
no loop. -/
def Obligations.AcknowledgeClearsOneBit : Prop :=
  ∀ (k : Source) (s : State), s.BusOrigin → s.MapsWf → s.Unobserved (Config.current.addr .pend) →
    ∃ t, exec (ackCommand Config.current k) s = .next t ∧
      (∀ j, (t.reg Config.current .pend).getLsbD j =
        ((s.reg Config.current .pend).getLsbD j && decide (j ≠ k.index))) ∧
      (∀ b, b ≠ Config.current.addr .pend → t.cell b = s.cell b) ∧
      t = { s with cells := t.cells, active := [], resp := some (s.origin, ⟨true, 0x00, 0⟩) }

/-- R144, R267: a bus write of `PEND` enables no wake and no scan that was not enabled before. -/
def Obligations.BusWriteOfPendWakesNothing : Prop :=
  ∀ (v : Word) (s t : State), s.MapsWf → s.Unobserved (Config.current.addr .pend) →
    ∀ i ∈ [Instr.wr (Config.current.addr .pend) v, .dwr (Config.current.addr .pend) v,
           .mand (Config.current.addr .pend) v, .mor (Config.current.addr .pend) v,
           .mxor (Config.current.addr .pend) v],
    exec i s = .next t →
    t.sig = s.sig ∧ t.loop = s.loop ∧ t.snap = s.snap ∧
    ∀ g, (.wake g ∈ enabledTurns t ↔ .wake g ∈ enabledTurns s) ∧ (.scan g ∈ enabledTurns t ↔ .scan g ∈ enabledTurns s)

/-- R218: only the group's wake step takes its signal. -/
def Obligations.OnlyTheWakeTakesASignal : Prop :=
  ∀ (s t : State) (g : Group), step s = .next t → t.sigOf g < s.sigOf g →
    chooseTurn Config.current s = some (.wake g)

/-! ## Dispatch -/

/-- R219: the wake step takes one count, one snapshot of `PEND` masked to the group, and goes to `SCAN`. The snapshot is
read through the bus: a read observer of `PEND` runs, and if it faults the count is gone and nothing else is done. -/
def Obligations.WakeTakesOneSnapshot : Prop :=
  ∀ (g : Group) (s : State),
    (wakeEnabled s g = true ↔ s.loopOf g = .wait ∧ 0 < (s.sigOf g).toNat ∧ s.fault = none) ∧
    (s.robsAt (Config.current.addr .pend) = none →
      runTurn (.wake g) s = .next (((s.clearActive.setSig g (s.sigOf g - 1)).setSnap g
        (s.reg Config.current .pend &&& g.mask)).setLoop g .scan)) ∧
    (∀ t, fireRead (cascade Config.current) (Config.current.addr .pend) (s.reg Config.current .pend)
        (s.clearActive.setSig g (s.sigOf g - 1)) = .ok () t →
      runTurn (.wake g) s = .next (((t.setSnap g (s.reg Config.current .pend &&& g.mask)).setLoop g .scan).clearActive)) ∧
    (∀ c t, fireRead (cascade c) (c.addr .pend) (s.reg c .pend) (s.clearActive.setSig g (s.sigOf g - 1)) = .halt t →
      wakeOn c g s = t.clearActive)

/-- R221, R225: the scan step, under every configuration (the dispatch order and the hooks present are open). The premise
is part of the model's invariant. -/
def Obligations.ScanDispatchesFromTheSnapshot : Prop :=
  ∀ (c : Config) (g : Group) (s : State), s.snapOf g &&& ~~~ g.mask = 0 →
    (scanEnabled s g = true ↔ s.loopOf g = .scan ∧ s.fault = none) ∧
    runTurn (.scan g) s = .next (scanOn Config.current g s) ∧
    (s.snapOf g = 0 → scanOn c g s = s.setLoop g .wait) ∧
    (s.snapOf g ≠ 0 → ∃ k : Source, k.group = g ∧ (s.snapOf g).getLsbD k.index = true ∧
      (c.dispatchOrder = .ascending → ∀ j, j < k.index → (s.snapOf g).getLsbD j = false) ∧
      (c.hookPresent k = true →
        scanOn c g s = (s.setSnap g (s.snapOf g &&& ~~~ bit k.index)).setLoop g (.call k)) ∧
      (c.hookPresent k = false → scanOn c g s = s.setSnap g (s.snapOf g &&& ~~~ bit k.index)))

/-- R221, U13: under the order `ANY` every set bit of the snapshot can be the one taken. -/
def Obligations.AnyOrderTakesAnySetBit : Prop :=
  ∀ (c : Config) (k : Source) (s : State), c.dispatchOrder = .any → (s.snapOf k.group).getLsbD k.index = true →
    ∃ f : Nat → Nat, scanOn { c with freeSource := f } k.group s = dispatchSource c k.group k s

/-- R220, R268: what the scan step does is the same whatever the cells hold, and it changes none. -/
def Obligations.ScanIgnoresTheCells : Prop :=
  ∀ (g : Group) (s : State) (m : Memory), ∃ t, runTurn (.scan g) s = .next t ∧ t.cells = s.cells ∧
    runTurn (.scan g) { s with cells := m } = .next { t with cells := m }

/-- R224, R88: HRET ends the call of its source and touches no cell. Its failures, where the origin is another's, or the
loop of its group in anything but the call of its source. -/
def Obligations.HookReturnEndsTheCall : Prop :=
  ∀ (k : Byte) (s : State),
    (Source.ofAux k = none → exec (.hret k) s = .next (s.respond ⟨false, 0x01, 0⟩)) ∧
    (∀ src, Source.ofAux k = some src →
      (s.origin ≠ .hook src.group → exec (.hret k) s = .next (s.respond ⟨false, 0x02, 0⟩)) ∧
      (s.origin = .hook src.group → s.loopOf src.group = .call src →
        exec (.hret k) s = .next ((s.setLoop src.group .scan).clearActive.respond ⟨true, 0x00, 0⟩)) ∧
      (s.origin = .hook src.group → s.loopOf src.group ≠ .call src →
        exec (.hret k) s = .next (s.respond ⟨false, 0x04, 0⟩)))

/-- R40, R226: a returning hook leaves its source Pending if its bit of `PEND` is set and Idle if not. -/
def Obligations.ReturnedSourceIsPendingOrIdle : Prop :=
  ∀ (k : Byte) (src : Source) (s t : State), Source.ofAux k = some src → s.origin = .hook src.group →
    sourceState Config.current s src = .dispatching → exec (.hret k) s = .next t →
    (pendBit Config.current s src = true → sourceState Config.current t src = .pending) ∧
    (pendBit Config.current s src = false → sourceState Config.current t src = .idle)

/-- R143, R221, R222, R227: `LOOP[g]` changes only in a wake or a scan of g, or when the hook of g returns from the call in
progress; nothing else enters or cancels a call. -/
def Obligations.LoopChangesOnlyByItsOwnSteps : Prop :=
  ∀ (s t : State) (g : Group), step s = .next t → t.loopOf g ≠ s.loopOf g →
    (chooseTurn Config.current s = some (.wake g) ∧ s.loopOf g = .wait ∧ t.loopOf g = .scan) ∨
    (chooseTurn Config.current s = some (.scan g) ∧ s.loopOf g = .scan) ∨
    ∃ cmd rest k src, chooseTurn Config.current s = some (.request (.hook g)) ∧
      takeHead (.hook g) s.inbox = some (cmd, rest) ∧ decode cmd = .ok (.hret k) ∧ Source.ofAux k = some src ∧
      src.group = g ∧ s.loopOf g = .call src ∧ t.loopOf g = .scan

/-- R231, under weak fairness: while the run does not fault and every called hook returns, a group whose signal is up is
woken. -/
def Obligations.SignalledGroupIsEventuallyWoken : Prop :=
  ∀ (σ : Nat → State) (g : Group) (n : Nat), IsRun σ → WeaklyFair σ → HooksReturn σ → (∀ m, (σ m).fault = none) →
    (σ n).sigOf g ≠ 0 → ∃ m, n ≤ m ∧ GrantedAt σ m (.wake g)

/-! ## Reset and the invariant -/

/-- R260, R261: the state after reset; and nothing but reset clears `FAULT`. -/
def Obligations.ResetState : Prop :=
  (∀ a, State.reset.cell a = 0) ∧ (∀ r, State.reset.reg Config.current r = 0) ∧
  (∀ a, State.reset.robsAt a = none) ∧
  (∀ p, State.reset.wobsAt (Config.current.addr (.gpioIn p)) = some (.gpioIn p)) ∧
  (∀ a, (∀ p, a ≠ Config.current.addr (.gpioIn p)) → State.reset.wobsAt a = none) ∧
  (∀ g, State.reset.sigOf g = 0 ∧ State.reset.loopOf g = .wait ∧ State.reset.snapOf g = 0) ∧
  State.reset.active = [] ∧ State.reset.fault = none ∧
  State.reset.hist.length = Config.current.dacHistLen ∧ (∀ x ∈ State.reset.hist, x = 0) ∧ State.reset.widx = 0 ∧
  (∀ k, sourceState Config.current State.reset k = .idle) ∧ State.reset.inbox = [] ∧
  (∀ s t, step s = .next t → s.fault = none) ∧
  (∀ x s, x ≠ .reset → (hostInput Config.current x s).fault = s.fault) ∧
  (∀ s, hostInput Config.current .reset s = State.reset)

/-- The invariant holds after reset. -/
def Obligations.ResetMeetsTheInvariant : Prop := State.reset.Inv Config.current

/-- Every step keeps the invariant, from every state that meets it: canonical maps, masked snapshots (R219), calls in
their group (R39), an empty `ACTIVE` between transactions (R41), a history of the right length and an index within
it (R43). -/
def Obligations.StepKeepsTheInvariant : Prop :=
  ∀ s t : State, s.Inv Config.current → step s = .next t → t.Inv Config.current

/-- Every input of the outside world keeps the invariant (R276). -/
def Obligations.InputKeepsTheInvariant : Prop :=
  ∀ (x : HostInput) (s : State), s.Inv Config.current → (hostInput Config.current x s).Inv Config.current

/-! ## Façades and the DAC history -/

/-- R181: which selectors are valid; R180: an invalid one issues no command and reports `ERR_INVALID_SELECTOR`, a valid one
issues exactly one command. -/
def Obligations.FacadeSelectorsAreValidated : Prop :=
  ∀ (port : Nat) (pin : Int) (d : PinDir),
    ∀ op ∈ [FacadeOp.pinCfg port pin d, .pinSet port pin, .pinClear port pin, .pinToggle port pin,
            .intEnable port pin, .intDisable port pin],
    (port < 4 ∧ 0 ≤ pin ∧ pin ≤ 31 → ∃ i, facadeCommands Config.current op = .ok [i]) ∧
    (¬ (port < 4 ∧ 0 ≤ pin ∧ pin ≤ 31) → facadeCommands Config.current op = .error 0x03)

/-- R182 to R187: what the six pin operations do to their register, where no observer watches it; bit n of the register
becomes 1, 0 or its complement, and no other bit, register or cell changes. -/
def Obligations.PinOperationsChangeOneBit : Prop :=
  ∀ (p : Port) (n : Nat) (s : State), n ≤ 31 → s.BusOrigin → s.MapsWf →
    ∀ x ∈ [(FacadeOp.pinCfg p.index n .output, RegName.gpioCtrl p, fun _ : Bool => true),
           (FacadeOp.pinCfg p.index n .input, RegName.gpioCtrl p, fun _ : Bool => false),
           (FacadeOp.pinSet p.index n, RegName.gpioOut p, fun _ : Bool => true),
           (FacadeOp.pinClear p.index n, RegName.gpioOut p, fun _ : Bool => false),
           (FacadeOp.pinToggle p.index n, RegName.gpioOut p, fun b : Bool => !b),
           (FacadeOp.intEnable p.index n, RegName.gpioInt p, fun _ : Bool => true),
           (FacadeOp.intDisable p.index n, RegName.gpioInt p, fun _ : Bool => false)],
    s.Unobserved (Config.current.addr x.2.1) →
    ∃ i t, facadeCommands Config.current x.1 = .ok [i] ∧ exec i s = .next t ∧
      (∀ j, j < 32 → (t.reg Config.current x.2.1).getLsbD j =
        if j = n then x.2.2 ((s.reg Config.current x.2.1).getLsbD j) else (s.reg Config.current x.2.1).getLsbD j) ∧
      (∀ b, b ≠ Config.current.addr x.2.1 → t.cell b = s.cell b) ∧
      t = { s with cells := t.cells, active := [], resp := some (s.origin, ⟨true, 0x00, 0⟩) }

/-- R184, R185: PinToggle twice restores OUT; PinSet then PinClear restores it if the bit was 0 (90_conflicts.md C1). -/
def Obligations.ToggleTwiceAndSetClearRestore : Prop :=
  ∀ (p : Port) (n : Nat) (s : State), n ≤ 31 → s.BusOrigin → s.MapsWf →
    s.Unobserved (Config.current.addr (.gpioOut p)) →
    (∃ t u, exec (.mxor (Config.current.addr (.gpioOut p)) (bit n)) s = .next t ∧
      exec (.mxor (Config.current.addr (.gpioOut p)) (bit n)) t = .next u ∧ u.cells = s.cells) ∧
    ((s.reg Config.current (.gpioOut p)).getLsbD n = false →
      ∃ t u, exec (.mor (Config.current.addr (.gpioOut p)) (bit n)) s = .next t ∧
        exec (.mand (Config.current.addr (.gpioOut p)) (~~~ bit n)) t = .next u ∧ u.cells = s.cells)

/-- R188, R189: the getters' values. Floor division at each step is one floor division, and the quotient is 0 where TOP or
the prescaler is. -/
def Obligations.TimerGettersCompute : Prop :=
  ∀ a b : Word,
    timerFreq a b = 16000000 / ((a.extractLsb' 8 8).toNat * b.toNat) ∧
    pwmDuty a b = 100 * a.toNat / b.toNat ∧
    facadeValue .timerFreqGet [a, b] = some (timerFreq a b) ∧ facadeValue .pwmDutyGet [a, b] = some (pwmDuty a b) ∧
    facadeCommands Config.current .timerFreqGet =
      .ok [.rd (Config.current.addr .timerCtrl), .rd (Config.current.addr .timerTop)] ∧
    facadeCommands Config.current .pwmDutyGet =
      .ok [.rd (Config.current.addr .timerCmp), .rd (Config.current.addr .timerTop)]

/-- R190: one append writes the entry at WIDX and moves WIDX on modulo the length; as many appends as there are entries
overwrite each entry once, in order, and bring WIDX back. -/
def Obligations.DacHistoryIsCircular : Prop :=
  (∀ (c : Config) (s : State) (x : Sample), s.appendSample c x =
    { s with hist := s.hist.set s.widx x, widx := (s.widx + 1) % c.dacHistLen }) ∧
  ∀ (c : Config) (s : State) (xs : List Sample), s.hist.length = c.dacHistLen → s.widx < c.dacHistLen →
    xs.length = c.dacHistLen →
    (xs.foldl (fun t x => t.appendSample c x) s).widx = s.widx ∧
    ∀ i, i < c.dacHistLen →
      (xs.foldl (fun t x => t.appendSample c x) s).hist[(s.widx + i) % c.dacHistLen]? = xs[i]?
end

