-- ==== Sys2Proof/Laws/Operands.lean ====
section
/-! SUPPORT. Small facts about names, operands and origins: the named addresses are different (R37), which operands are
source bits and port indices (R86, R140), and which origins may use the bus (R85). -/

namespace Sys2Proof

theorem RegName.mem_all (r : RegName) : r ∈ RegName.all := by
  cases r with
  | gpioCtrl p => cases p <;> decide
  | gpioInt p => cases p <;> decide
  | gpioOut p => cases p <;> decide
  | gpioIn p => cases p <;> decide
  | _ => decide

/-- R37: the named addresses are pairwise distinct. -/
theorem Config.addr_injective (c : Config) {r r' : RegName} (h : c.addr r = c.addr r') : r = r' :=
  List.inj_on_of_nodup_map c.addrDistinct (RegName.mem_all r) (RegName.mem_all r') h

@[simp] theorem Config.addr_eq_iff (c : Config) (r r' : RegName) : c.addr r = c.addr r' ↔ r = r' :=
  ⟨c.addr_injective, fun h => by rw [h]⟩

theorem Source.mem_all (k : Source) : k ∈ Source.all := by cases k <;> decide

theorem Source.ofAux_some {k : Byte} {src : Source} (h : Source.ofAux k = some src) : src.index = k.toNat := by
  have := List.find?_some h
  simpa using this

theorem Source.ofAux_isSome_iff (k : Byte) :
    (Source.ofAux k).isSome = true ↔ k.toNat ∈ [0, 1, 2, 3, 14, 16, 23] := by
  simp only [Source.ofAux, List.find?_isSome, beq_iff_eq]
  constructor
  · rintro ⟨src, -, h⟩
    rw [← h]
    cases src <;> decide
  · intro h
    simp only [List.mem_cons, List.not_mem_nil, or_false] at h
    rcases h with h | h | h | h | h | h | h <;> rw [h]
    · exact ⟨.portA, by decide, rfl⟩
    · exact ⟨.portB, by decide, rfl⟩
    · exact ⟨.portC, by decide, rfl⟩
    · exact ⟨.portD, by decide, rfl⟩
    · exact ⟨.rtc, by decide, rfl⟩
    · exact ⟨.dac, by decide, rfl⟩
    · exact ⟨.uart, by decide, rfl⟩

@[simp] theorem Source.ofAux_aux (k : Source) : Source.ofAux k.aux = some k := by cases k <;> decide

theorem Source.bit_eq (k : Source) : k.bit = Sys2Proof.bit k.index := rfl

theorem Source.index_lt (k : Source) : k.index < 32 := by cases k <;> decide

theorem Port.ofIndex_index (p : Port) : Port.ofIndex p.index = some p := by cases p <;> rfl

theorem Port.ofIndex_eq_some {n : Nat} {p : Port} : Port.ofIndex n = some p ↔ n = p.index := by
  constructor
  · intro h
    unfold Port.ofIndex at h
    split at h <;> simp_all [Port.index] <;> subst h <;> rfl
  · rintro rfl
    exact Port.ofIndex_index p

theorem Port.ofIndex_isSome_iff (n : Nat) : (Port.ofIndex n).isSome = true ↔ n ≤ 3 := by
  constructor
  · intro h
    obtain ⟨p, hp⟩ := Option.isSome_iff_exists.1 h
    rw [Port.ofIndex_eq_some.1 hp]
    cases p <;> decide
  · intro h
    match n, h with
    | 0, _ => rfl
    | 1, _ => rfl
    | 2, _ => rfl
    | 3, _ => rfl

@[simp] theorem Port.source_group (p : Port) : p.source.group = .gpio := by cases p <;> rfl

@[simp] theorem Port.source_index (p : Port) : p.source.index = p.index := by cases p <;> rfl

/-- Bit j of `1 << n`, for the n the spec defines it for (R12). -/
theorem getLsbD_bit {n : Nat} (hn : n < 32) (j : Nat) : (bit n).getLsbD j = decide (j = n) := by
  by_cases h : j = n
  · subst h
    simp [bit, hn]
  · simp only [bit, BitVec.getLsbD_shiftLeft, BitVec.getLsbD_one, h, decide_false]
    by_cases h1 : j < n
    · simp [h1]
    · have : ¬ (j - n = 0) := by omega
      simp [this]

namespace Machine

theorem LoopState.inCall_iff (l : LoopState) : l.inCall = true ↔ ∃ k, l = .call k := by
  cases l <;> simp [LoopState.inCall]

/-- The check of the model is the table of R85 and R213. -/
theorem mayUseBus_iff (s : State) : mayUseBus s = true ↔ s.BusOrigin := by
  unfold mayUseBus State.BusOrigin
  cases s.origin <;> simp [LoopState.inCall_iff]

end Machine

end Sys2Proof
end

