-- ==== Sys2Proof/Laws/Memory.lean ====
section
/-! SUPPORT. The laws of the sparse maps and of the cell array: a read after a write, and that every operation keeps
the canonical form. -/

namespace Sys2Proof.Machine

theorem addr_lt_of_not_lt {a b : Addr} (h : ¬ a < b) (ne : a ≠ b) : b < a := by
  have h1 : a.toNat ≠ b.toNat := fun e => ne (BitVec.eq_of_toNat_eq e)
  rw [BitVec.lt_def] at h ⊢
  omega

section Assoc

variable {β : Type}

@[simp] theorem assocGet_put_same (m : List (Addr × β)) (a : Addr) (v : β) : assocGet (assocPut m a v) a = some v := by
  induction m with
  | nil => simp [assocPut, assocGet]
  | cons x m ih =>
    obtain ⟨k, w⟩ := x
    by_cases h : a = k
    · simp [assocPut, assocGet, h]
    · by_cases h2 : a < k
      · simp [assocPut, assocGet, h, h2]
      · simp [assocPut, assocGet, h, h2, Ne.symm h, ih]

theorem assocGet_put_other (m : List (Addr × β)) {a b : Addr} (v : β) (h : b ≠ a) :
    assocGet (assocPut m a v) b = assocGet m b := by
  induction m with
  | nil => simp [assocPut, assocGet, Ne.symm h]
  | cons x m ih =>
    obtain ⟨k, w⟩ := x
    by_cases hk : a = k
    · subst hk
      simp [assocPut, assocGet, Ne.symm h]
    · by_cases h2 : a < k
      · simp [assocPut, assocGet, hk, h2, Ne.symm h]
      · simp [assocPut, assocGet, hk, h2, ih]

theorem assocGet_none_of_lt {m : List (Addr × β)} {a : Addr} (h : ∀ x ∈ m, a < x.1) : assocGet m a = none := by
  induction m with
  | nil => rfl
  | cons x m ih =>
    obtain ⟨k, w⟩ := x
    have hk : k ≠ a := fun e => absurd (e ▸ h (k, w) (by simp)) (BitVec.lt_irrefl a)
    simp only [assocGet, hk, if_false]
    exact ih fun x hx => h x (by simp [hx])

theorem assocGet_erase_same {m : List (Addr × β)} (hm : assocSorted m) (a : Addr) :
    assocGet (assocErase m a) a = none := by
  induction m with
  | nil => rfl
  | cons x m ih =>
    obtain ⟨k, w⟩ := x
    rw [assocSorted, List.pairwise_cons] at hm
    by_cases h : k = a
    · subst h
      simpa [assocErase] using assocGet_none_of_lt hm.1
    · simp [assocErase, assocGet, h, ih hm.2]

theorem assocGet_erase_other (m : List (Addr × β)) {a b : Addr} (h : b ≠ a) :
    assocGet (assocErase m a) b = assocGet m b := by
  induction m with
  | nil => rfl
  | cons x m ih =>
    obtain ⟨k, w⟩ := x
    by_cases hk : k = a
    · subst hk
      simp [assocErase, assocGet, Ne.symm h]
    · simp [assocErase, assocGet, hk, ih]

theorem mem_assocErase {m : List (Addr × β)} {a : Addr} {x : Addr × β} (h : x ∈ assocErase m a) : x ∈ m := by
  induction m with
  | nil => simp [assocErase] at h
  | cons y m ih =>
    obtain ⟨k, w⟩ := y
    by_cases hk : k = a
    · simp only [assocErase, hk, if_true] at h
      simp [h]
    · simp only [assocErase, hk, if_false, List.mem_cons] at h
      rcases h with h | h
      · simp [h]
      · simp [ih h]

theorem mem_assocPut {m : List (Addr × β)} {a : Addr} {v : β} {x : Addr × β} (h : x ∈ assocPut m a v) :
    x = (a, v) ∨ x ∈ m := by
  induction m with
  | nil => simpa [assocPut] using h
  | cons y m ih =>
    obtain ⟨k, w⟩ := y
    by_cases hk : a = k
    · simp only [assocPut, hk, if_true, List.mem_cons] at h
      rcases h with h | h
      · simp [h, hk]
      · simp [h]
    · by_cases h2 : a < k
      · simpa [assocPut, hk, h2] using h
      · simp only [assocPut, hk, h2, if_false, List.mem_cons] at h
        rcases h with h | h
        · simp [h]
        · rcases ih h with h | h <;> simp [h]

theorem assocSorted_erase {m : List (Addr × β)} (hm : assocSorted m) (a : Addr) : assocSorted (assocErase m a) := by
  induction m with
  | nil => exact hm
  | cons x m ih =>
    obtain ⟨k, w⟩ := x
    rw [assocSorted, List.pairwise_cons] at hm
    by_cases h : k = a
    · simpa [assocErase, h] using hm.2
    · simp only [assocErase, h, if_false, assocSorted, List.pairwise_cons]
      exact ⟨fun y hy => hm.1 y (mem_assocErase hy), ih hm.2⟩

theorem assocSorted_put {m : List (Addr × β)} (hm : assocSorted m) (a : Addr) (v : β) :
    assocSorted (assocPut m a v) := by
  induction m with
  | nil => simp [assocPut, assocSorted]
  | cons x m ih =>
    obtain ⟨k, w⟩ := x
    have hm' := hm
    rw [assocSorted, List.pairwise_cons] at hm
    by_cases h : a = k
    · subst h
      simp only [assocPut, if_true, assocSorted, List.pairwise_cons]
      exact ⟨hm.1, hm.2⟩
    · by_cases h2 : a < k
      · simp only [assocPut, h, h2, if_false, if_true]
        rw [assocSorted, List.pairwise_cons]
        refine ⟨fun y hy => ?_, hm'⟩
        rcases List.mem_cons.1 hy with rfl | hy
        · exact h2
        · exact BitVec.lt_trans h2 (hm.1 y hy)
      · simp only [assocPut, h, h2, if_false, assocSorted, List.pairwise_cons]
        refine ⟨fun y hy => ?_, ih hm.2⟩
        rcases mem_assocPut hy with rfl | hy
        · exact addr_lt_of_not_lt h2 h
        · exact hm.1 y hy

theorem assocGet_eq_none_of_put {m : List (Addr × β)} {a b : Addr} {v : β} (h : assocGet (assocPut m a v) b = none) :
    b ≠ a ∧ assocGet m b = none := by
  by_cases hb : b = a
  · subst hb
    simp at h
  · exact ⟨hb, by rwa [assocGet_put_other m v hb] at h⟩

/-- Two canonical maps that list the same at every address are the same map. -/
theorem assoc_ext {m n : List (Addr × β)} (hm : assocSorted m) (hn : assocSorted n)
    (h : ∀ a, assocGet m a = assocGet n a) : m = n := by
  induction m generalizing n with
  | nil =>
    cases n with
    | nil => rfl
    | cons y n => simpa [assocGet] using h y.1
  | cons x m ih =>
    obtain ⟨k, v⟩ := x
    cases n with
    | nil => simpa [assocGet] using h k
    | cons y n =>
      obtain ⟨j, w⟩ := y
      rw [assocSorted, List.pairwise_cons] at hm hn
      have below : ∀ {l : List (Addr × β)} {i b : Addr}, (∀ x ∈ l, i < x.1) → b < i → assocGet l b = none :=
        fun hl hb => assocGet_none_of_lt fun x hx => BitVec.lt_trans hb (hl x hx)
      have hkj : k = j := by
        by_contra ne
        by_cases lt : k < j
        · have := h k
          simp [assocGet, Ne.symm ne, below hn.1 lt] at this
        · have lt := addr_lt_of_not_lt lt ne
          have := h j
          simp [assocGet, ne, below hm.1 lt] at this
      subst hkj
      have hv : v = w := by simpa [assocGet] using h k
      subst hv
      congr 1
      refine ih hm.2 hn.2 fun a => ?_
      by_cases ha : k = a
      · subst ha
        rw [assocGet_none_of_lt hm.1, assocGet_none_of_lt hn.1]
      · simpa [assocGet, ha] using h a

end Assoc

/-! ## The cell array -/

theorem Memory.wf_iff (m : Memory) : m.wf ↔ assocSorted m ∧ ∀ x ∈ m, x.2 ≠ Memory.unlisted := by
  simp [Memory.wf]

@[simp] theorem Memory.read_nil (a : Addr) : Memory.read [] a = 0 := rfl

theorem Memory.read_write_other (m : Memory) {a b : Addr} (v : Word) (h : b ≠ a) :
    (m.write a v).read b = m.read b := by
  unfold Memory.write Memory.read
  split
  · rw [assocGet_erase_other m h]
  · rw [assocGet_put_other m v h]

theorem Memory.read_write_same {m : Memory} (hm : m.wf) (a : Addr) (v : Word) : (m.write a v).read a = v := by
  unfold Memory.write Memory.read
  split
  · rename_i h
    rw [assocGet_erase_same hm.1, h]
    rfl
  · simp

theorem Memory.wf_write {m : Memory} (hm : m.wf) (a : Addr) (v : Word) : (m.write a v).wf := by
  unfold Memory.write
  split
  · exact (Memory.wf_iff _).2 ⟨assocSorted_erase hm.1 a, fun x hx => ((Memory.wf_iff _).1 hm).2 x (mem_assocErase hx)⟩
  · rename_i h
    refine (Memory.wf_iff _).2 ⟨assocSorted_put hm.1 a v, fun x hx => ?_⟩
    rcases mem_assocPut hx with rfl | hx
    · exact h
    · exact ((Memory.wf_iff _).1 hm).2 x hx

theorem Memory.wf_nil : Memory.wf [] := by decide

/-- Equal memories are equal data. -/
theorem Memory.ext_read {m n : Memory} (hm : m.wf) (hn : n.wf) (h : ∀ a, m.read a = n.read a) : m = n := by
  have listed : ∀ {l : Memory}, l.wf → ∀ {a v}, assocGet l a = some v → v ≠ Memory.unlisted := by
    intro l hl a v hv
    have mem : ∀ {l : Memory}, assocGet l a = some v → (a, v) ∈ l := by
      intro l
      induction l with
      | nil => simp [assocGet]
      | cons x l ih =>
        obtain ⟨k, w⟩ := x
        by_cases hk : k = a
        · subst hk
          simp +contextual [assocGet]
        · simp only [assocGet, hk, if_false, List.mem_cons]
          exact fun e => .inr (ih e)
    exact ((Memory.wf_iff _).1 hl).2 _ (mem hv)
  refine assoc_ext hm.1 hn.1 fun a => ?_
  have ha := h a
  unfold Memory.read at ha
  cases e1 : assocGet m a with
  | none =>
    cases e2 : assocGet n a with
    | none => rfl
    | some w => exact absurd (by simpa [e1, e2] using ha.symm) (listed hn e2)
  | some v =>
    cases e2 : assocGet n a with
    | none => exact absurd (by simpa [e1, e2] using ha) (listed hm e1)
    | some w => simpa [e1, e2] using ha

theorem State.cell_setCell_other (s : State) {a b : Addr} (v : Word) (h : b ≠ a) :
    (s.setCell a v).cell b = s.cell b := Memory.read_write_other s.cells v h

theorem State.cell_setCell_same {s : State} (hs : s.cells.wf) (a : Addr) (v : Word) :
    (s.setCell a v).cell a = v := Memory.read_write_same hs a v

/-! ## Observer slots -/

@[simp] theorem State.robsAt_setRobs_same (s : State) (a : Addr) (x : External) :
    (s.setRobs a x).robsAt a = some x := assocGet_put_same s.robs a x

theorem State.robsAt_setRobs_other (s : State) {a b : Addr} (x : External) (h : b ≠ a) :
    (s.setRobs a x).robsAt b = s.robsAt b := assocGet_put_other s.robs x h

@[simp] theorem State.wobsAt_setWobs_same (s : State) (a : Addr) (o : Observer) :
    (s.setWobs a o).wobsAt a = some o := assocGet_put_same s.wobs a o

theorem State.wobsAt_setWobs_other (s : State) {a b : Addr} (o : Observer) (h : b ≠ a) :
    (s.setWobs a o).wobsAt b = s.wobsAt b := assocGet_put_other s.wobs o h

end Sys2Proof.Machine
end

