-- ==== Sys2Proof/Laws/State.lean ====
section
/-! SUPPORT. What each update of the state does to each field and to each accessor: one lemma each, true by `rfl`, so
that no proof unfolds a record update. -/

namespace Sys2Proof.Machine

theorem State.ext_fields {s t : State} (h1 : s.cells = t.cells) (h2 : s.robs = t.robs) (h3 : s.wobs = t.wobs)
    (h4 : s.sig = t.sig) (h5 : s.loop = t.loop) (h6 : s.snap = t.snap) (h7 : s.active = t.active)
    (h8 : s.fault = t.fault) (h9 : s.hist = t.hist) (h10 : s.widx = t.widx) (h11 : s.inbox = t.inbox)
    (h12 : s.resp = t.resp) (h13 : s.origin = t.origin) (h14 : s.sched = t.sched) (h15 : s.draws = t.draws) : s = t := by
  cases s; cases t; simp_all

/-! ## setCell -/

@[simp] theorem State.setCell_cells (s : State) (a : Addr) (v : Word) : (s.setCell a v).cells = s.cells.write a v := rfl
@[simp] theorem State.setCell_robs (s : State) (a : Addr) (v : Word) : (s.setCell a v).robs = s.robs := rfl
@[simp] theorem State.setCell_wobs (s : State) (a : Addr) (v : Word) : (s.setCell a v).wobs = s.wobs := rfl
@[simp] theorem State.setCell_sig (s : State) (a : Addr) (v : Word) : (s.setCell a v).sig = s.sig := rfl
@[simp] theorem State.setCell_loop (s : State) (a : Addr) (v : Word) : (s.setCell a v).loop = s.loop := rfl
@[simp] theorem State.setCell_snap (s : State) (a : Addr) (v : Word) : (s.setCell a v).snap = s.snap := rfl
@[simp] theorem State.setCell_active (s : State) (a : Addr) (v : Word) : (s.setCell a v).active = s.active := rfl
@[simp] theorem State.setCell_fault (s : State) (a : Addr) (v : Word) : (s.setCell a v).fault = s.fault := rfl
@[simp] theorem State.setCell_hist (s : State) (a : Addr) (v : Word) : (s.setCell a v).hist = s.hist := rfl
@[simp] theorem State.setCell_widx (s : State) (a : Addr) (v : Word) : (s.setCell a v).widx = s.widx := rfl
@[simp] theorem State.setCell_inbox (s : State) (a : Addr) (v : Word) : (s.setCell a v).inbox = s.inbox := rfl
@[simp] theorem State.setCell_resp (s : State) (a : Addr) (v : Word) : (s.setCell a v).resp = s.resp := rfl
@[simp] theorem State.setCell_origin (s : State) (a : Addr) (v : Word) : (s.setCell a v).origin = s.origin := rfl
@[simp] theorem State.setCell_sched (s : State) (a : Addr) (v : Word) : (s.setCell a v).sched = s.sched := rfl
@[simp] theorem State.setCell_draws (s : State) (a : Addr) (v : Word) : (s.setCell a v).draws = s.draws := rfl
@[simp] theorem State.setCell_robsAt (s : State) (a : Addr) (v : Word) (b : Addr) : (s.setCell a v).robsAt b = s.robsAt b := rfl
@[simp] theorem State.setCell_wobsAt (s : State) (a : Addr) (v : Word) (b : Addr) : (s.setCell a v).wobsAt b = s.wobsAt b := rfl
@[simp] theorem State.setCell_sigOf (s : State) (a : Addr) (v : Word) (j : Group) : (s.setCell a v).sigOf j = s.sigOf j := rfl
@[simp] theorem State.setCell_loopOf (s : State) (a : Addr) (v : Word) (j : Group) : (s.setCell a v).loopOf j = s.loopOf j := rfl
@[simp] theorem State.setCell_snapOf (s : State) (a : Addr) (v : Word) (j : Group) : (s.setCell a v).snapOf j = s.snapOf j := rfl
@[simp] theorem State.setCell_isActive (s : State) (a : Addr) (v : Word) (b : Addr) : (s.setCell a v).isActive b = s.isActive b := rfl

/-! ## setRobs -/

@[simp] theorem State.setRobs_cells (s : State) (a : Addr) (x : External) : (s.setRobs a x).cells = s.cells := rfl
@[simp] theorem State.setRobs_robs (s : State) (a : Addr) (x : External) : (s.setRobs a x).robs = assocPut s.robs a x := rfl
@[simp] theorem State.setRobs_wobs (s : State) (a : Addr) (x : External) : (s.setRobs a x).wobs = s.wobs := rfl
@[simp] theorem State.setRobs_sig (s : State) (a : Addr) (x : External) : (s.setRobs a x).sig = s.sig := rfl
@[simp] theorem State.setRobs_loop (s : State) (a : Addr) (x : External) : (s.setRobs a x).loop = s.loop := rfl
@[simp] theorem State.setRobs_snap (s : State) (a : Addr) (x : External) : (s.setRobs a x).snap = s.snap := rfl
@[simp] theorem State.setRobs_active (s : State) (a : Addr) (x : External) : (s.setRobs a x).active = s.active := rfl
@[simp] theorem State.setRobs_fault (s : State) (a : Addr) (x : External) : (s.setRobs a x).fault = s.fault := rfl
@[simp] theorem State.setRobs_hist (s : State) (a : Addr) (x : External) : (s.setRobs a x).hist = s.hist := rfl
@[simp] theorem State.setRobs_widx (s : State) (a : Addr) (x : External) : (s.setRobs a x).widx = s.widx := rfl
@[simp] theorem State.setRobs_inbox (s : State) (a : Addr) (x : External) : (s.setRobs a x).inbox = s.inbox := rfl
@[simp] theorem State.setRobs_resp (s : State) (a : Addr) (x : External) : (s.setRobs a x).resp = s.resp := rfl
@[simp] theorem State.setRobs_origin (s : State) (a : Addr) (x : External) : (s.setRobs a x).origin = s.origin := rfl
@[simp] theorem State.setRobs_sched (s : State) (a : Addr) (x : External) : (s.setRobs a x).sched = s.sched := rfl
@[simp] theorem State.setRobs_draws (s : State) (a : Addr) (x : External) : (s.setRobs a x).draws = s.draws := rfl
@[simp] theorem State.setRobs_cell (s : State) (a : Addr) (x : External) (b : Addr) : (s.setRobs a x).cell b = s.cell b := rfl
@[simp] theorem State.setRobs_wobsAt (s : State) (a : Addr) (x : External) (b : Addr) : (s.setRobs a x).wobsAt b = s.wobsAt b := rfl
@[simp] theorem State.setRobs_sigOf (s : State) (a : Addr) (x : External) (j : Group) : (s.setRobs a x).sigOf j = s.sigOf j := rfl
@[simp] theorem State.setRobs_loopOf (s : State) (a : Addr) (x : External) (j : Group) : (s.setRobs a x).loopOf j = s.loopOf j := rfl
@[simp] theorem State.setRobs_snapOf (s : State) (a : Addr) (x : External) (j : Group) : (s.setRobs a x).snapOf j = s.snapOf j := rfl
@[simp] theorem State.setRobs_isActive (s : State) (a : Addr) (x : External) (b : Addr) : (s.setRobs a x).isActive b = s.isActive b := rfl
@[simp] theorem State.setRobs_reg (s : State) (c : Config) (a : Addr) (x : External) (r : RegName) : (s.setRobs a x).reg c r = s.reg c r := rfl

/-! ## setWobs -/

@[simp] theorem State.setWobs_cells (s : State) (a : Addr) (o : Observer) : (s.setWobs a o).cells = s.cells := rfl
@[simp] theorem State.setWobs_robs (s : State) (a : Addr) (o : Observer) : (s.setWobs a o).robs = s.robs := rfl
@[simp] theorem State.setWobs_wobs (s : State) (a : Addr) (o : Observer) : (s.setWobs a o).wobs = assocPut s.wobs a o := rfl
@[simp] theorem State.setWobs_sig (s : State) (a : Addr) (o : Observer) : (s.setWobs a o).sig = s.sig := rfl
@[simp] theorem State.setWobs_loop (s : State) (a : Addr) (o : Observer) : (s.setWobs a o).loop = s.loop := rfl
@[simp] theorem State.setWobs_snap (s : State) (a : Addr) (o : Observer) : (s.setWobs a o).snap = s.snap := rfl
@[simp] theorem State.setWobs_active (s : State) (a : Addr) (o : Observer) : (s.setWobs a o).active = s.active := rfl
@[simp] theorem State.setWobs_fault (s : State) (a : Addr) (o : Observer) : (s.setWobs a o).fault = s.fault := rfl
@[simp] theorem State.setWobs_hist (s : State) (a : Addr) (o : Observer) : (s.setWobs a o).hist = s.hist := rfl
@[simp] theorem State.setWobs_widx (s : State) (a : Addr) (o : Observer) : (s.setWobs a o).widx = s.widx := rfl
@[simp] theorem State.setWobs_inbox (s : State) (a : Addr) (o : Observer) : (s.setWobs a o).inbox = s.inbox := rfl
@[simp] theorem State.setWobs_resp (s : State) (a : Addr) (o : Observer) : (s.setWobs a o).resp = s.resp := rfl
@[simp] theorem State.setWobs_origin (s : State) (a : Addr) (o : Observer) : (s.setWobs a o).origin = s.origin := rfl
@[simp] theorem State.setWobs_sched (s : State) (a : Addr) (o : Observer) : (s.setWobs a o).sched = s.sched := rfl
@[simp] theorem State.setWobs_draws (s : State) (a : Addr) (o : Observer) : (s.setWobs a o).draws = s.draws := rfl
@[simp] theorem State.setWobs_cell (s : State) (a : Addr) (o : Observer) (b : Addr) : (s.setWobs a o).cell b = s.cell b := rfl
@[simp] theorem State.setWobs_robsAt (s : State) (a : Addr) (o : Observer) (b : Addr) : (s.setWobs a o).robsAt b = s.robsAt b := rfl
@[simp] theorem State.setWobs_sigOf (s : State) (a : Addr) (o : Observer) (j : Group) : (s.setWobs a o).sigOf j = s.sigOf j := rfl
@[simp] theorem State.setWobs_loopOf (s : State) (a : Addr) (o : Observer) (j : Group) : (s.setWobs a o).loopOf j = s.loopOf j := rfl
@[simp] theorem State.setWobs_snapOf (s : State) (a : Addr) (o : Observer) (j : Group) : (s.setWobs a o).snapOf j = s.snapOf j := rfl
@[simp] theorem State.setWobs_isActive (s : State) (a : Addr) (o : Observer) (b : Addr) : (s.setWobs a o).isActive b = s.isActive b := rfl
@[simp] theorem State.setWobs_reg (s : State) (c : Config) (a : Addr) (o : Observer) (r : RegName) : (s.setWobs a o).reg c r = s.reg c r := rfl

/-! ## setSig -/

@[simp] theorem State.setSig_cells (s : State) (g : Group) (n : Word) : (s.setSig g n).cells = s.cells := rfl
@[simp] theorem State.setSig_robs (s : State) (g : Group) (n : Word) : (s.setSig g n).robs = s.robs := rfl
@[simp] theorem State.setSig_wobs (s : State) (g : Group) (n : Word) : (s.setSig g n).wobs = s.wobs := rfl
@[simp] theorem State.setSig_sig (s : State) (g : Group) (n : Word) : (s.setSig g n).sig = s.sig.set g n := rfl
@[simp] theorem State.setSig_loop (s : State) (g : Group) (n : Word) : (s.setSig g n).loop = s.loop := rfl
@[simp] theorem State.setSig_snap (s : State) (g : Group) (n : Word) : (s.setSig g n).snap = s.snap := rfl
@[simp] theorem State.setSig_active (s : State) (g : Group) (n : Word) : (s.setSig g n).active = s.active := rfl
@[simp] theorem State.setSig_fault (s : State) (g : Group) (n : Word) : (s.setSig g n).fault = s.fault := rfl
@[simp] theorem State.setSig_hist (s : State) (g : Group) (n : Word) : (s.setSig g n).hist = s.hist := rfl
@[simp] theorem State.setSig_widx (s : State) (g : Group) (n : Word) : (s.setSig g n).widx = s.widx := rfl
@[simp] theorem State.setSig_inbox (s : State) (g : Group) (n : Word) : (s.setSig g n).inbox = s.inbox := rfl
@[simp] theorem State.setSig_resp (s : State) (g : Group) (n : Word) : (s.setSig g n).resp = s.resp := rfl
@[simp] theorem State.setSig_origin (s : State) (g : Group) (n : Word) : (s.setSig g n).origin = s.origin := rfl
@[simp] theorem State.setSig_sched (s : State) (g : Group) (n : Word) : (s.setSig g n).sched = s.sched := rfl
@[simp] theorem State.setSig_draws (s : State) (g : Group) (n : Word) : (s.setSig g n).draws = s.draws := rfl
@[simp] theorem State.setSig_cell (s : State) (g : Group) (n : Word) (b : Addr) : (s.setSig g n).cell b = s.cell b := rfl
@[simp] theorem State.setSig_robsAt (s : State) (g : Group) (n : Word) (b : Addr) : (s.setSig g n).robsAt b = s.robsAt b := rfl
@[simp] theorem State.setSig_wobsAt (s : State) (g : Group) (n : Word) (b : Addr) : (s.setSig g n).wobsAt b = s.wobsAt b := rfl
@[simp] theorem State.setSig_loopOf (s : State) (g : Group) (n : Word) (j : Group) : (s.setSig g n).loopOf j = s.loopOf j := rfl
@[simp] theorem State.setSig_snapOf (s : State) (g : Group) (n : Word) (j : Group) : (s.setSig g n).snapOf j = s.snapOf j := rfl
@[simp] theorem State.setSig_isActive (s : State) (g : Group) (n : Word) (b : Addr) : (s.setSig g n).isActive b = s.isActive b := rfl
@[simp] theorem State.setSig_reg (s : State) (c : Config) (g : Group) (n : Word) (r : RegName) : (s.setSig g n).reg c r = s.reg c r := rfl

/-! ## setLoop -/

@[simp] theorem State.setLoop_cells (s : State) (g : Group) (l : LoopState) : (s.setLoop g l).cells = s.cells := rfl
@[simp] theorem State.setLoop_robs (s : State) (g : Group) (l : LoopState) : (s.setLoop g l).robs = s.robs := rfl
@[simp] theorem State.setLoop_wobs (s : State) (g : Group) (l : LoopState) : (s.setLoop g l).wobs = s.wobs := rfl
@[simp] theorem State.setLoop_sig (s : State) (g : Group) (l : LoopState) : (s.setLoop g l).sig = s.sig := rfl
@[simp] theorem State.setLoop_loop (s : State) (g : Group) (l : LoopState) : (s.setLoop g l).loop = s.loop.set g l := rfl
@[simp] theorem State.setLoop_snap (s : State) (g : Group) (l : LoopState) : (s.setLoop g l).snap = s.snap := rfl
@[simp] theorem State.setLoop_active (s : State) (g : Group) (l : LoopState) : (s.setLoop g l).active = s.active := rfl
@[simp] theorem State.setLoop_fault (s : State) (g : Group) (l : LoopState) : (s.setLoop g l).fault = s.fault := rfl
@[simp] theorem State.setLoop_hist (s : State) (g : Group) (l : LoopState) : (s.setLoop g l).hist = s.hist := rfl
@[simp] theorem State.setLoop_widx (s : State) (g : Group) (l : LoopState) : (s.setLoop g l).widx = s.widx := rfl
@[simp] theorem State.setLoop_inbox (s : State) (g : Group) (l : LoopState) : (s.setLoop g l).inbox = s.inbox := rfl
@[simp] theorem State.setLoop_resp (s : State) (g : Group) (l : LoopState) : (s.setLoop g l).resp = s.resp := rfl
@[simp] theorem State.setLoop_origin (s : State) (g : Group) (l : LoopState) : (s.setLoop g l).origin = s.origin := rfl
@[simp] theorem State.setLoop_sched (s : State) (g : Group) (l : LoopState) : (s.setLoop g l).sched = s.sched := rfl
@[simp] theorem State.setLoop_draws (s : State) (g : Group) (l : LoopState) : (s.setLoop g l).draws = s.draws := rfl
@[simp] theorem State.setLoop_cell (s : State) (g : Group) (l : LoopState) (b : Addr) : (s.setLoop g l).cell b = s.cell b := rfl
@[simp] theorem State.setLoop_robsAt (s : State) (g : Group) (l : LoopState) (b : Addr) : (s.setLoop g l).robsAt b = s.robsAt b := rfl
@[simp] theorem State.setLoop_wobsAt (s : State) (g : Group) (l : LoopState) (b : Addr) : (s.setLoop g l).wobsAt b = s.wobsAt b := rfl
@[simp] theorem State.setLoop_sigOf (s : State) (g : Group) (l : LoopState) (j : Group) : (s.setLoop g l).sigOf j = s.sigOf j := rfl
@[simp] theorem State.setLoop_snapOf (s : State) (g : Group) (l : LoopState) (j : Group) : (s.setLoop g l).snapOf j = s.snapOf j := rfl
@[simp] theorem State.setLoop_isActive (s : State) (g : Group) (l : LoopState) (b : Addr) : (s.setLoop g l).isActive b = s.isActive b := rfl
@[simp] theorem State.setLoop_reg (s : State) (c : Config) (g : Group) (l : LoopState) (r : RegName) : (s.setLoop g l).reg c r = s.reg c r := rfl

/-! ## setSnap -/

@[simp] theorem State.setSnap_cells (s : State) (g : Group) (m : Word) : (s.setSnap g m).cells = s.cells := rfl
@[simp] theorem State.setSnap_robs (s : State) (g : Group) (m : Word) : (s.setSnap g m).robs = s.robs := rfl
@[simp] theorem State.setSnap_wobs (s : State) (g : Group) (m : Word) : (s.setSnap g m).wobs = s.wobs := rfl
@[simp] theorem State.setSnap_sig (s : State) (g : Group) (m : Word) : (s.setSnap g m).sig = s.sig := rfl
@[simp] theorem State.setSnap_loop (s : State) (g : Group) (m : Word) : (s.setSnap g m).loop = s.loop := rfl
@[simp] theorem State.setSnap_snap (s : State) (g : Group) (m : Word) : (s.setSnap g m).snap = s.snap.set g m := rfl
@[simp] theorem State.setSnap_active (s : State) (g : Group) (m : Word) : (s.setSnap g m).active = s.active := rfl
@[simp] theorem State.setSnap_fault (s : State) (g : Group) (m : Word) : (s.setSnap g m).fault = s.fault := rfl
@[simp] theorem State.setSnap_hist (s : State) (g : Group) (m : Word) : (s.setSnap g m).hist = s.hist := rfl
@[simp] theorem State.setSnap_widx (s : State) (g : Group) (m : Word) : (s.setSnap g m).widx = s.widx := rfl
@[simp] theorem State.setSnap_inbox (s : State) (g : Group) (m : Word) : (s.setSnap g m).inbox = s.inbox := rfl
@[simp] theorem State.setSnap_resp (s : State) (g : Group) (m : Word) : (s.setSnap g m).resp = s.resp := rfl
@[simp] theorem State.setSnap_origin (s : State) (g : Group) (m : Word) : (s.setSnap g m).origin = s.origin := rfl
@[simp] theorem State.setSnap_sched (s : State) (g : Group) (m : Word) : (s.setSnap g m).sched = s.sched := rfl
@[simp] theorem State.setSnap_draws (s : State) (g : Group) (m : Word) : (s.setSnap g m).draws = s.draws := rfl
@[simp] theorem State.setSnap_cell (s : State) (g : Group) (m : Word) (b : Addr) : (s.setSnap g m).cell b = s.cell b := rfl
@[simp] theorem State.setSnap_robsAt (s : State) (g : Group) (m : Word) (b : Addr) : (s.setSnap g m).robsAt b = s.robsAt b := rfl
@[simp] theorem State.setSnap_wobsAt (s : State) (g : Group) (m : Word) (b : Addr) : (s.setSnap g m).wobsAt b = s.wobsAt b := rfl
@[simp] theorem State.setSnap_sigOf (s : State) (g : Group) (m : Word) (j : Group) : (s.setSnap g m).sigOf j = s.sigOf j := rfl
@[simp] theorem State.setSnap_loopOf (s : State) (g : Group) (m : Word) (j : Group) : (s.setSnap g m).loopOf j = s.loopOf j := rfl
@[simp] theorem State.setSnap_isActive (s : State) (g : Group) (m : Word) (b : Addr) : (s.setSnap g m).isActive b = s.isActive b := rfl
@[simp] theorem State.setSnap_reg (s : State) (c : Config) (g : Group) (m : Word) (r : RegName) : (s.setSnap g m).reg c r = s.reg c r := rfl

/-! ## releaseSignal -/

@[simp] theorem State.releaseSignal_cells (s : State) (g : Group) : (s.releaseSignal g).cells = s.cells := rfl
@[simp] theorem State.releaseSignal_robs (s : State) (g : Group) : (s.releaseSignal g).robs = s.robs := rfl
@[simp] theorem State.releaseSignal_wobs (s : State) (g : Group) : (s.releaseSignal g).wobs = s.wobs := rfl
@[simp] theorem State.releaseSignal_sig (s : State) (g : Group) : (s.releaseSignal g).sig = s.sig.set g (sigUp (s.sigOf g)) := rfl
@[simp] theorem State.releaseSignal_loop (s : State) (g : Group) : (s.releaseSignal g).loop = s.loop := rfl
@[simp] theorem State.releaseSignal_snap (s : State) (g : Group) : (s.releaseSignal g).snap = s.snap := rfl
@[simp] theorem State.releaseSignal_active (s : State) (g : Group) : (s.releaseSignal g).active = s.active := rfl
@[simp] theorem State.releaseSignal_fault (s : State) (g : Group) : (s.releaseSignal g).fault = s.fault := rfl
@[simp] theorem State.releaseSignal_hist (s : State) (g : Group) : (s.releaseSignal g).hist = s.hist := rfl
@[simp] theorem State.releaseSignal_widx (s : State) (g : Group) : (s.releaseSignal g).widx = s.widx := rfl
@[simp] theorem State.releaseSignal_inbox (s : State) (g : Group) : (s.releaseSignal g).inbox = s.inbox := rfl
@[simp] theorem State.releaseSignal_resp (s : State) (g : Group) : (s.releaseSignal g).resp = s.resp := rfl
@[simp] theorem State.releaseSignal_origin (s : State) (g : Group) : (s.releaseSignal g).origin = s.origin := rfl
@[simp] theorem State.releaseSignal_sched (s : State) (g : Group) : (s.releaseSignal g).sched = s.sched := rfl
@[simp] theorem State.releaseSignal_draws (s : State) (g : Group) : (s.releaseSignal g).draws = s.draws := rfl
@[simp] theorem State.releaseSignal_cell (s : State) (g : Group) (b : Addr) : (s.releaseSignal g).cell b = s.cell b := rfl
@[simp] theorem State.releaseSignal_robsAt (s : State) (g : Group) (b : Addr) : (s.releaseSignal g).robsAt b = s.robsAt b := rfl
@[simp] theorem State.releaseSignal_wobsAt (s : State) (g : Group) (b : Addr) : (s.releaseSignal g).wobsAt b = s.wobsAt b := rfl
@[simp] theorem State.releaseSignal_loopOf (s : State) (g : Group) (j : Group) : (s.releaseSignal g).loopOf j = s.loopOf j := rfl
@[simp] theorem State.releaseSignal_snapOf (s : State) (g : Group) (j : Group) : (s.releaseSignal g).snapOf j = s.snapOf j := rfl
@[simp] theorem State.releaseSignal_isActive (s : State) (g : Group) (b : Addr) : (s.releaseSignal g).isActive b = s.isActive b := rfl
@[simp] theorem State.releaseSignal_reg (s : State) (c : Config) (g : Group) (r : RegName) : (s.releaseSignal g).reg c r = s.reg c r := rfl

/-! ## takeSignal -/

@[simp] theorem State.takeSignal_cells (s : State) (g : Group) : (s.takeSignal g).cells = s.cells := rfl
@[simp] theorem State.takeSignal_robs (s : State) (g : Group) : (s.takeSignal g).robs = s.robs := rfl
@[simp] theorem State.takeSignal_wobs (s : State) (g : Group) : (s.takeSignal g).wobs = s.wobs := rfl
@[simp] theorem State.takeSignal_sig (s : State) (g : Group) : (s.takeSignal g).sig = s.sig.set g (s.sigOf g - 1) := rfl
@[simp] theorem State.takeSignal_loop (s : State) (g : Group) : (s.takeSignal g).loop = s.loop := rfl
@[simp] theorem State.takeSignal_snap (s : State) (g : Group) : (s.takeSignal g).snap = s.snap := rfl
@[simp] theorem State.takeSignal_active (s : State) (g : Group) : (s.takeSignal g).active = s.active := rfl
@[simp] theorem State.takeSignal_fault (s : State) (g : Group) : (s.takeSignal g).fault = s.fault := rfl
@[simp] theorem State.takeSignal_hist (s : State) (g : Group) : (s.takeSignal g).hist = s.hist := rfl
@[simp] theorem State.takeSignal_widx (s : State) (g : Group) : (s.takeSignal g).widx = s.widx := rfl
@[simp] theorem State.takeSignal_inbox (s : State) (g : Group) : (s.takeSignal g).inbox = s.inbox := rfl
@[simp] theorem State.takeSignal_resp (s : State) (g : Group) : (s.takeSignal g).resp = s.resp := rfl
@[simp] theorem State.takeSignal_origin (s : State) (g : Group) : (s.takeSignal g).origin = s.origin := rfl
@[simp] theorem State.takeSignal_sched (s : State) (g : Group) : (s.takeSignal g).sched = s.sched := rfl
@[simp] theorem State.takeSignal_draws (s : State) (g : Group) : (s.takeSignal g).draws = s.draws := rfl
@[simp] theorem State.takeSignal_cell (s : State) (g : Group) (b : Addr) : (s.takeSignal g).cell b = s.cell b := rfl
@[simp] theorem State.takeSignal_robsAt (s : State) (g : Group) (b : Addr) : (s.takeSignal g).robsAt b = s.robsAt b := rfl
@[simp] theorem State.takeSignal_wobsAt (s : State) (g : Group) (b : Addr) : (s.takeSignal g).wobsAt b = s.wobsAt b := rfl
@[simp] theorem State.takeSignal_loopOf (s : State) (g : Group) (j : Group) : (s.takeSignal g).loopOf j = s.loopOf j := rfl
@[simp] theorem State.takeSignal_snapOf (s : State) (g : Group) (j : Group) : (s.takeSignal g).snapOf j = s.snapOf j := rfl
@[simp] theorem State.takeSignal_isActive (s : State) (g : Group) (b : Addr) : (s.takeSignal g).isActive b = s.isActive b := rfl
@[simp] theorem State.takeSignal_reg (s : State) (c : Config) (g : Group) (r : RegName) : (s.takeSignal g).reg c r = s.reg c r := rfl

/-! ## pushActive -/

@[simp] theorem State.pushActive_cells (s : State) (a : Addr) (d : Dir) : (s.pushActive a d).cells = s.cells := rfl
@[simp] theorem State.pushActive_robs (s : State) (a : Addr) (d : Dir) : (s.pushActive a d).robs = s.robs := rfl
@[simp] theorem State.pushActive_wobs (s : State) (a : Addr) (d : Dir) : (s.pushActive a d).wobs = s.wobs := rfl
@[simp] theorem State.pushActive_sig (s : State) (a : Addr) (d : Dir) : (s.pushActive a d).sig = s.sig := rfl
@[simp] theorem State.pushActive_loop (s : State) (a : Addr) (d : Dir) : (s.pushActive a d).loop = s.loop := rfl
@[simp] theorem State.pushActive_snap (s : State) (a : Addr) (d : Dir) : (s.pushActive a d).snap = s.snap := rfl
@[simp] theorem State.pushActive_active (s : State) (a : Addr) (d : Dir) : (s.pushActive a d).active = (a, d) :: s.active := rfl
@[simp] theorem State.pushActive_fault (s : State) (a : Addr) (d : Dir) : (s.pushActive a d).fault = s.fault := rfl
@[simp] theorem State.pushActive_hist (s : State) (a : Addr) (d : Dir) : (s.pushActive a d).hist = s.hist := rfl
@[simp] theorem State.pushActive_widx (s : State) (a : Addr) (d : Dir) : (s.pushActive a d).widx = s.widx := rfl
@[simp] theorem State.pushActive_inbox (s : State) (a : Addr) (d : Dir) : (s.pushActive a d).inbox = s.inbox := rfl
@[simp] theorem State.pushActive_resp (s : State) (a : Addr) (d : Dir) : (s.pushActive a d).resp = s.resp := rfl
@[simp] theorem State.pushActive_origin (s : State) (a : Addr) (d : Dir) : (s.pushActive a d).origin = s.origin := rfl
@[simp] theorem State.pushActive_sched (s : State) (a : Addr) (d : Dir) : (s.pushActive a d).sched = s.sched := rfl
@[simp] theorem State.pushActive_draws (s : State) (a : Addr) (d : Dir) : (s.pushActive a d).draws = s.draws := rfl
@[simp] theorem State.pushActive_cell (s : State) (a : Addr) (d : Dir) (b : Addr) : (s.pushActive a d).cell b = s.cell b := rfl
@[simp] theorem State.pushActive_robsAt (s : State) (a : Addr) (d : Dir) (b : Addr) : (s.pushActive a d).robsAt b = s.robsAt b := rfl
@[simp] theorem State.pushActive_wobsAt (s : State) (a : Addr) (d : Dir) (b : Addr) : (s.pushActive a d).wobsAt b = s.wobsAt b := rfl
@[simp] theorem State.pushActive_sigOf (s : State) (a : Addr) (d : Dir) (j : Group) : (s.pushActive a d).sigOf j = s.sigOf j := rfl
@[simp] theorem State.pushActive_loopOf (s : State) (a : Addr) (d : Dir) (j : Group) : (s.pushActive a d).loopOf j = s.loopOf j := rfl
@[simp] theorem State.pushActive_snapOf (s : State) (a : Addr) (d : Dir) (j : Group) : (s.pushActive a d).snapOf j = s.snapOf j := rfl
@[simp] theorem State.pushActive_reg (s : State) (c : Config) (a : Addr) (d : Dir) (r : RegName) : (s.pushActive a d).reg c r = s.reg c r := rfl

/-! ## popActive -/

@[simp] theorem State.popActive_cells (s : State) : (s.popActive).cells = s.cells := rfl
@[simp] theorem State.popActive_robs (s : State) : (s.popActive).robs = s.robs := rfl
@[simp] theorem State.popActive_wobs (s : State) : (s.popActive).wobs = s.wobs := rfl
@[simp] theorem State.popActive_sig (s : State) : (s.popActive).sig = s.sig := rfl
@[simp] theorem State.popActive_loop (s : State) : (s.popActive).loop = s.loop := rfl
@[simp] theorem State.popActive_snap (s : State) : (s.popActive).snap = s.snap := rfl
@[simp] theorem State.popActive_active (s : State) : (s.popActive).active = s.active.tail := rfl
@[simp] theorem State.popActive_fault (s : State) : (s.popActive).fault = s.fault := rfl
@[simp] theorem State.popActive_hist (s : State) : (s.popActive).hist = s.hist := rfl
@[simp] theorem State.popActive_widx (s : State) : (s.popActive).widx = s.widx := rfl
@[simp] theorem State.popActive_inbox (s : State) : (s.popActive).inbox = s.inbox := rfl
@[simp] theorem State.popActive_resp (s : State) : (s.popActive).resp = s.resp := rfl
@[simp] theorem State.popActive_origin (s : State) : (s.popActive).origin = s.origin := rfl
@[simp] theorem State.popActive_sched (s : State) : (s.popActive).sched = s.sched := rfl
@[simp] theorem State.popActive_draws (s : State) : (s.popActive).draws = s.draws := rfl
@[simp] theorem State.popActive_cell (s : State) (b : Addr) : (s.popActive).cell b = s.cell b := rfl
@[simp] theorem State.popActive_robsAt (s : State) (b : Addr) : (s.popActive).robsAt b = s.robsAt b := rfl
@[simp] theorem State.popActive_wobsAt (s : State) (b : Addr) : (s.popActive).wobsAt b = s.wobsAt b := rfl
@[simp] theorem State.popActive_sigOf (s : State) (j : Group) : (s.popActive).sigOf j = s.sigOf j := rfl
@[simp] theorem State.popActive_loopOf (s : State) (j : Group) : (s.popActive).loopOf j = s.loopOf j := rfl
@[simp] theorem State.popActive_snapOf (s : State) (j : Group) : (s.popActive).snapOf j = s.snapOf j := rfl
@[simp] theorem State.popActive_reg (s : State) (c : Config) (r : RegName) : (s.popActive).reg c r = s.reg c r := rfl

/-! ## clearActive -/

@[simp] theorem State.clearActive_cells (s : State) : (s.clearActive).cells = s.cells := rfl
@[simp] theorem State.clearActive_robs (s : State) : (s.clearActive).robs = s.robs := rfl
@[simp] theorem State.clearActive_wobs (s : State) : (s.clearActive).wobs = s.wobs := rfl
@[simp] theorem State.clearActive_sig (s : State) : (s.clearActive).sig = s.sig := rfl
@[simp] theorem State.clearActive_loop (s : State) : (s.clearActive).loop = s.loop := rfl
@[simp] theorem State.clearActive_snap (s : State) : (s.clearActive).snap = s.snap := rfl
@[simp] theorem State.clearActive_active (s : State) : (s.clearActive).active = [] := rfl
@[simp] theorem State.clearActive_fault (s : State) : (s.clearActive).fault = s.fault := rfl
@[simp] theorem State.clearActive_hist (s : State) : (s.clearActive).hist = s.hist := rfl
@[simp] theorem State.clearActive_widx (s : State) : (s.clearActive).widx = s.widx := rfl
@[simp] theorem State.clearActive_inbox (s : State) : (s.clearActive).inbox = s.inbox := rfl
@[simp] theorem State.clearActive_resp (s : State) : (s.clearActive).resp = s.resp := rfl
@[simp] theorem State.clearActive_origin (s : State) : (s.clearActive).origin = s.origin := rfl
@[simp] theorem State.clearActive_sched (s : State) : (s.clearActive).sched = s.sched := rfl
@[simp] theorem State.clearActive_draws (s : State) : (s.clearActive).draws = s.draws := rfl
@[simp] theorem State.clearActive_cell (s : State) (b : Addr) : (s.clearActive).cell b = s.cell b := rfl
@[simp] theorem State.clearActive_robsAt (s : State) (b : Addr) : (s.clearActive).robsAt b = s.robsAt b := rfl
@[simp] theorem State.clearActive_wobsAt (s : State) (b : Addr) : (s.clearActive).wobsAt b = s.wobsAt b := rfl
@[simp] theorem State.clearActive_sigOf (s : State) (j : Group) : (s.clearActive).sigOf j = s.sigOf j := rfl
@[simp] theorem State.clearActive_loopOf (s : State) (j : Group) : (s.clearActive).loopOf j = s.loopOf j := rfl
@[simp] theorem State.clearActive_snapOf (s : State) (j : Group) : (s.clearActive).snapOf j = s.snapOf j := rfl
@[simp] theorem State.clearActive_reg (s : State) (c : Config) (r : RegName) : (s.clearActive).reg c r = s.reg c r := rfl

/-! ## setFault -/

@[simp] theorem State.setFault_cells (s : State) : (s.setFault).cells = s.cells := rfl
@[simp] theorem State.setFault_robs (s : State) : (s.setFault).robs = s.robs := rfl
@[simp] theorem State.setFault_wobs (s : State) : (s.setFault).wobs = s.wobs := rfl
@[simp] theorem State.setFault_sig (s : State) : (s.setFault).sig = s.sig := rfl
@[simp] theorem State.setFault_loop (s : State) : (s.setFault).loop = s.loop := rfl
@[simp] theorem State.setFault_snap (s : State) : (s.setFault).snap = s.snap := rfl
@[simp] theorem State.setFault_active (s : State) : (s.setFault).active = s.active := rfl
@[simp] theorem State.setFault_fault (s : State) : (s.setFault).fault = some .reentrant := rfl
@[simp] theorem State.setFault_hist (s : State) : (s.setFault).hist = s.hist := rfl
@[simp] theorem State.setFault_widx (s : State) : (s.setFault).widx = s.widx := rfl
@[simp] theorem State.setFault_inbox (s : State) : (s.setFault).inbox = s.inbox := rfl
@[simp] theorem State.setFault_resp (s : State) : (s.setFault).resp = s.resp := rfl
@[simp] theorem State.setFault_origin (s : State) : (s.setFault).origin = s.origin := rfl
@[simp] theorem State.setFault_sched (s : State) : (s.setFault).sched = s.sched := rfl
@[simp] theorem State.setFault_draws (s : State) : (s.setFault).draws = s.draws := rfl
@[simp] theorem State.setFault_cell (s : State) (b : Addr) : (s.setFault).cell b = s.cell b := rfl
@[simp] theorem State.setFault_robsAt (s : State) (b : Addr) : (s.setFault).robsAt b = s.robsAt b := rfl
@[simp] theorem State.setFault_wobsAt (s : State) (b : Addr) : (s.setFault).wobsAt b = s.wobsAt b := rfl
@[simp] theorem State.setFault_sigOf (s : State) (j : Group) : (s.setFault).sigOf j = s.sigOf j := rfl
@[simp] theorem State.setFault_loopOf (s : State) (j : Group) : (s.setFault).loopOf j = s.loopOf j := rfl
@[simp] theorem State.setFault_snapOf (s : State) (j : Group) : (s.setFault).snapOf j = s.snapOf j := rfl
@[simp] theorem State.setFault_isActive (s : State) (b : Addr) : (s.setFault).isActive b = s.isActive b := rfl
@[simp] theorem State.setFault_reg (s : State) (c : Config) (r : RegName) : (s.setFault).reg c r = s.reg c r := rfl

/-! ## appendSample -/

@[simp] theorem State.appendSample_cells (s : State) (c : Config) (v : Sample) : (s.appendSample c v).cells = s.cells := rfl
@[simp] theorem State.appendSample_robs (s : State) (c : Config) (v : Sample) : (s.appendSample c v).robs = s.robs := rfl
@[simp] theorem State.appendSample_wobs (s : State) (c : Config) (v : Sample) : (s.appendSample c v).wobs = s.wobs := rfl
@[simp] theorem State.appendSample_sig (s : State) (c : Config) (v : Sample) : (s.appendSample c v).sig = s.sig := rfl
@[simp] theorem State.appendSample_loop (s : State) (c : Config) (v : Sample) : (s.appendSample c v).loop = s.loop := rfl
@[simp] theorem State.appendSample_snap (s : State) (c : Config) (v : Sample) : (s.appendSample c v).snap = s.snap := rfl
@[simp] theorem State.appendSample_active (s : State) (c : Config) (v : Sample) : (s.appendSample c v).active = s.active := rfl
@[simp] theorem State.appendSample_fault (s : State) (c : Config) (v : Sample) : (s.appendSample c v).fault = s.fault := rfl
@[simp] theorem State.appendSample_hist (s : State) (c : Config) (v : Sample) : (s.appendSample c v).hist = s.hist.set s.widx v := rfl
@[simp] theorem State.appendSample_widx (s : State) (c : Config) (v : Sample) : (s.appendSample c v).widx = (s.widx + 1) % c.dacHistLen := rfl
@[simp] theorem State.appendSample_inbox (s : State) (c : Config) (v : Sample) : (s.appendSample c v).inbox = s.inbox := rfl
@[simp] theorem State.appendSample_resp (s : State) (c : Config) (v : Sample) : (s.appendSample c v).resp = s.resp := rfl
@[simp] theorem State.appendSample_origin (s : State) (c : Config) (v : Sample) : (s.appendSample c v).origin = s.origin := rfl
@[simp] theorem State.appendSample_sched (s : State) (c : Config) (v : Sample) : (s.appendSample c v).sched = s.sched := rfl
@[simp] theorem State.appendSample_draws (s : State) (c : Config) (v : Sample) : (s.appendSample c v).draws = s.draws := rfl
@[simp] theorem State.appendSample_cell (s : State) (c : Config) (v : Sample) (b : Addr) : (s.appendSample c v).cell b = s.cell b := rfl
@[simp] theorem State.appendSample_robsAt (s : State) (c : Config) (v : Sample) (b : Addr) : (s.appendSample c v).robsAt b = s.robsAt b := rfl
@[simp] theorem State.appendSample_wobsAt (s : State) (c : Config) (v : Sample) (b : Addr) : (s.appendSample c v).wobsAt b = s.wobsAt b := rfl
@[simp] theorem State.appendSample_sigOf (s : State) (c : Config) (v : Sample) (j : Group) : (s.appendSample c v).sigOf j = s.sigOf j := rfl
@[simp] theorem State.appendSample_loopOf (s : State) (c : Config) (v : Sample) (j : Group) : (s.appendSample c v).loopOf j = s.loopOf j := rfl
@[simp] theorem State.appendSample_snapOf (s : State) (c : Config) (v : Sample) (j : Group) : (s.appendSample c v).snapOf j = s.snapOf j := rfl
@[simp] theorem State.appendSample_isActive (s : State) (c : Config) (v : Sample) (b : Addr) : (s.appendSample c v).isActive b = s.isActive b := rfl
@[simp] theorem State.appendSample_reg (s : State) (c : Config) (v : Sample) (r : RegName) : (s.appendSample c v).reg c r = s.reg c r := rfl

/-! ## respond -/

@[simp] theorem State.respond_cells (s : State) (r : Response) : (s.respond r).cells = s.cells := rfl
@[simp] theorem State.respond_robs (s : State) (r : Response) : (s.respond r).robs = s.robs := rfl
@[simp] theorem State.respond_wobs (s : State) (r : Response) : (s.respond r).wobs = s.wobs := rfl
@[simp] theorem State.respond_sig (s : State) (r : Response) : (s.respond r).sig = s.sig := rfl
@[simp] theorem State.respond_loop (s : State) (r : Response) : (s.respond r).loop = s.loop := rfl
@[simp] theorem State.respond_snap (s : State) (r : Response) : (s.respond r).snap = s.snap := rfl
@[simp] theorem State.respond_active (s : State) (r : Response) : (s.respond r).active = s.active := rfl
@[simp] theorem State.respond_fault (s : State) (r : Response) : (s.respond r).fault = s.fault := rfl
@[simp] theorem State.respond_hist (s : State) (r : Response) : (s.respond r).hist = s.hist := rfl
@[simp] theorem State.respond_widx (s : State) (r : Response) : (s.respond r).widx = s.widx := rfl
@[simp] theorem State.respond_inbox (s : State) (r : Response) : (s.respond r).inbox = s.inbox := rfl
@[simp] theorem State.respond_resp (s : State) (r : Response) : (s.respond r).resp = some (s.origin, r) := rfl
@[simp] theorem State.respond_origin (s : State) (r : Response) : (s.respond r).origin = s.origin := rfl
@[simp] theorem State.respond_sched (s : State) (r : Response) : (s.respond r).sched = s.sched := rfl
@[simp] theorem State.respond_draws (s : State) (r : Response) : (s.respond r).draws = s.draws := rfl
@[simp] theorem State.respond_cell (s : State) (r : Response) (b : Addr) : (s.respond r).cell b = s.cell b := rfl
@[simp] theorem State.respond_robsAt (s : State) (r : Response) (b : Addr) : (s.respond r).robsAt b = s.robsAt b := rfl
@[simp] theorem State.respond_wobsAt (s : State) (r : Response) (b : Addr) : (s.respond r).wobsAt b = s.wobsAt b := rfl
@[simp] theorem State.respond_sigOf (s : State) (r : Response) (j : Group) : (s.respond r).sigOf j = s.sigOf j := rfl
@[simp] theorem State.respond_loopOf (s : State) (r : Response) (j : Group) : (s.respond r).loopOf j = s.loopOf j := rfl
@[simp] theorem State.respond_snapOf (s : State) (r : Response) (j : Group) : (s.respond r).snapOf j = s.snapOf j := rfl
@[simp] theorem State.respond_isActive (s : State) (r : Response) (b : Addr) : (s.respond r).isActive b = s.isActive b := rfl
@[simp] theorem State.respond_reg (s : State) (c : Config) (x : Response) (r : RegName) : (s.respond x).reg c r = s.reg c r := rfl

/-! ## noResponse -/

@[simp] theorem State.noResponse_cells (s : State) : (s.noResponse).cells = s.cells := rfl
@[simp] theorem State.noResponse_robs (s : State) : (s.noResponse).robs = s.robs := rfl
@[simp] theorem State.noResponse_wobs (s : State) : (s.noResponse).wobs = s.wobs := rfl
@[simp] theorem State.noResponse_sig (s : State) : (s.noResponse).sig = s.sig := rfl
@[simp] theorem State.noResponse_loop (s : State) : (s.noResponse).loop = s.loop := rfl
@[simp] theorem State.noResponse_snap (s : State) : (s.noResponse).snap = s.snap := rfl
@[simp] theorem State.noResponse_active (s : State) : (s.noResponse).active = s.active := rfl
@[simp] theorem State.noResponse_fault (s : State) : (s.noResponse).fault = s.fault := rfl
@[simp] theorem State.noResponse_hist (s : State) : (s.noResponse).hist = s.hist := rfl
@[simp] theorem State.noResponse_widx (s : State) : (s.noResponse).widx = s.widx := rfl
@[simp] theorem State.noResponse_inbox (s : State) : (s.noResponse).inbox = s.inbox := rfl
@[simp] theorem State.noResponse_resp (s : State) : (s.noResponse).resp = none := rfl
@[simp] theorem State.noResponse_origin (s : State) : (s.noResponse).origin = s.origin := rfl
@[simp] theorem State.noResponse_sched (s : State) : (s.noResponse).sched = s.sched := rfl
@[simp] theorem State.noResponse_draws (s : State) : (s.noResponse).draws = s.draws := rfl
@[simp] theorem State.noResponse_cell (s : State) (b : Addr) : (s.noResponse).cell b = s.cell b := rfl
@[simp] theorem State.noResponse_robsAt (s : State) (b : Addr) : (s.noResponse).robsAt b = s.robsAt b := rfl
@[simp] theorem State.noResponse_wobsAt (s : State) (b : Addr) : (s.noResponse).wobsAt b = s.wobsAt b := rfl
@[simp] theorem State.noResponse_sigOf (s : State) (j : Group) : (s.noResponse).sigOf j = s.sigOf j := rfl
@[simp] theorem State.noResponse_loopOf (s : State) (j : Group) : (s.noResponse).loopOf j = s.loopOf j := rfl
@[simp] theorem State.noResponse_snapOf (s : State) (j : Group) : (s.noResponse).snapOf j = s.snapOf j := rfl
@[simp] theorem State.noResponse_isActive (s : State) (b : Addr) : (s.noResponse).isActive b = s.isActive b := rfl
@[simp] theorem State.noResponse_reg (s : State) (c : Config) (r : RegName) : (s.noResponse).reg c r = s.reg c r := rfl

/-! ## drawn -/

@[simp] theorem State.drawn_cells (s : State) : (s.drawn).cells = s.cells := rfl
@[simp] theorem State.drawn_robs (s : State) : (s.drawn).robs = s.robs := rfl
@[simp] theorem State.drawn_wobs (s : State) : (s.drawn).wobs = s.wobs := rfl
@[simp] theorem State.drawn_sig (s : State) : (s.drawn).sig = s.sig := rfl
@[simp] theorem State.drawn_loop (s : State) : (s.drawn).loop = s.loop := rfl
@[simp] theorem State.drawn_snap (s : State) : (s.drawn).snap = s.snap := rfl
@[simp] theorem State.drawn_active (s : State) : (s.drawn).active = s.active := rfl
@[simp] theorem State.drawn_fault (s : State) : (s.drawn).fault = s.fault := rfl
@[simp] theorem State.drawn_hist (s : State) : (s.drawn).hist = s.hist := rfl
@[simp] theorem State.drawn_widx (s : State) : (s.drawn).widx = s.widx := rfl
@[simp] theorem State.drawn_inbox (s : State) : (s.drawn).inbox = s.inbox := rfl
@[simp] theorem State.drawn_resp (s : State) : (s.drawn).resp = s.resp := rfl
@[simp] theorem State.drawn_origin (s : State) : (s.drawn).origin = s.origin := rfl
@[simp] theorem State.drawn_sched (s : State) : (s.drawn).sched = s.sched.tail := rfl
@[simp] theorem State.drawn_draws (s : State) : (s.drawn).draws = s.draws + 1 := rfl
@[simp] theorem State.drawn_cell (s : State) (b : Addr) : (s.drawn).cell b = s.cell b := rfl
@[simp] theorem State.drawn_robsAt (s : State) (b : Addr) : (s.drawn).robsAt b = s.robsAt b := rfl
@[simp] theorem State.drawn_wobsAt (s : State) (b : Addr) : (s.drawn).wobsAt b = s.wobsAt b := rfl
@[simp] theorem State.drawn_sigOf (s : State) (j : Group) : (s.drawn).sigOf j = s.sigOf j := rfl
@[simp] theorem State.drawn_loopOf (s : State) (j : Group) : (s.drawn).loopOf j = s.loopOf j := rfl
@[simp] theorem State.drawn_snapOf (s : State) (j : Group) : (s.drawn).snapOf j = s.snapOf j := rfl
@[simp] theorem State.drawn_isActive (s : State) (b : Addr) : (s.drawn).isActive b = s.isActive b := rfl
@[simp] theorem State.drawn_reg (s : State) (c : Config) (r : RegName) : (s.drawn).reg c r = s.reg c r := rfl

/-! ## accept -/

@[simp] theorem State.accept_cells (s : State) (o : Origin) (l : List Request) : (s.accept o l).cells = s.cells := rfl
@[simp] theorem State.accept_robs (s : State) (o : Origin) (l : List Request) : (s.accept o l).robs = s.robs := rfl
@[simp] theorem State.accept_wobs (s : State) (o : Origin) (l : List Request) : (s.accept o l).wobs = s.wobs := rfl
@[simp] theorem State.accept_sig (s : State) (o : Origin) (l : List Request) : (s.accept o l).sig = s.sig := rfl
@[simp] theorem State.accept_loop (s : State) (o : Origin) (l : List Request) : (s.accept o l).loop = s.loop := rfl
@[simp] theorem State.accept_snap (s : State) (o : Origin) (l : List Request) : (s.accept o l).snap = s.snap := rfl
@[simp] theorem State.accept_active (s : State) (o : Origin) (l : List Request) : (s.accept o l).active = s.active := rfl
@[simp] theorem State.accept_fault (s : State) (o : Origin) (l : List Request) : (s.accept o l).fault = s.fault := rfl
@[simp] theorem State.accept_hist (s : State) (o : Origin) (l : List Request) : (s.accept o l).hist = s.hist := rfl
@[simp] theorem State.accept_widx (s : State) (o : Origin) (l : List Request) : (s.accept o l).widx = s.widx := rfl
@[simp] theorem State.accept_inbox (s : State) (o : Origin) (l : List Request) : (s.accept o l).inbox = l := rfl
@[simp] theorem State.accept_resp (s : State) (o : Origin) (l : List Request) : (s.accept o l).resp = s.resp := rfl
@[simp] theorem State.accept_origin (s : State) (o : Origin) (l : List Request) : (s.accept o l).origin = o := rfl
@[simp] theorem State.accept_sched (s : State) (o : Origin) (l : List Request) : (s.accept o l).sched = s.sched := rfl
@[simp] theorem State.accept_draws (s : State) (o : Origin) (l : List Request) : (s.accept o l).draws = s.draws := rfl
@[simp] theorem State.accept_cell (s : State) (o : Origin) (l : List Request) (b : Addr) : (s.accept o l).cell b = s.cell b := rfl
@[simp] theorem State.accept_robsAt (s : State) (o : Origin) (l : List Request) (b : Addr) : (s.accept o l).robsAt b = s.robsAt b := rfl
@[simp] theorem State.accept_wobsAt (s : State) (o : Origin) (l : List Request) (b : Addr) : (s.accept o l).wobsAt b = s.wobsAt b := rfl
@[simp] theorem State.accept_sigOf (s : State) (o : Origin) (l : List Request) (j : Group) : (s.accept o l).sigOf j = s.sigOf j := rfl
@[simp] theorem State.accept_loopOf (s : State) (o : Origin) (l : List Request) (j : Group) : (s.accept o l).loopOf j = s.loopOf j := rfl
@[simp] theorem State.accept_snapOf (s : State) (o : Origin) (l : List Request) (j : Group) : (s.accept o l).snapOf j = s.snapOf j := rfl
@[simp] theorem State.accept_isActive (s : State) (o : Origin) (l : List Request) (b : Addr) : (s.accept o l).isActive b = s.isActive b := rfl
@[simp] theorem State.accept_reg (s : State) (c : Config) (o : Origin) (l : List Request) (r : RegName) : (s.accept o l).reg c r = s.reg c r := rfl

/-! ## enqueue -/

@[simp] theorem State.enqueue_cells (s : State) (o : Origin) (cmd : Command) : (s.enqueue o cmd).cells = s.cells := rfl
@[simp] theorem State.enqueue_robs (s : State) (o : Origin) (cmd : Command) : (s.enqueue o cmd).robs = s.robs := rfl
@[simp] theorem State.enqueue_wobs (s : State) (o : Origin) (cmd : Command) : (s.enqueue o cmd).wobs = s.wobs := rfl
@[simp] theorem State.enqueue_sig (s : State) (o : Origin) (cmd : Command) : (s.enqueue o cmd).sig = s.sig := rfl
@[simp] theorem State.enqueue_loop (s : State) (o : Origin) (cmd : Command) : (s.enqueue o cmd).loop = s.loop := rfl
@[simp] theorem State.enqueue_snap (s : State) (o : Origin) (cmd : Command) : (s.enqueue o cmd).snap = s.snap := rfl
@[simp] theorem State.enqueue_active (s : State) (o : Origin) (cmd : Command) : (s.enqueue o cmd).active = s.active := rfl
@[simp] theorem State.enqueue_fault (s : State) (o : Origin) (cmd : Command) : (s.enqueue o cmd).fault = s.fault := rfl
@[simp] theorem State.enqueue_hist (s : State) (o : Origin) (cmd : Command) : (s.enqueue o cmd).hist = s.hist := rfl
@[simp] theorem State.enqueue_widx (s : State) (o : Origin) (cmd : Command) : (s.enqueue o cmd).widx = s.widx := rfl
@[simp] theorem State.enqueue_inbox (s : State) (o : Origin) (cmd : Command) : (s.enqueue o cmd).inbox = s.inbox ++ [⟨o, cmd⟩] := rfl
@[simp] theorem State.enqueue_resp (s : State) (o : Origin) (cmd : Command) : (s.enqueue o cmd).resp = s.resp := rfl
@[simp] theorem State.enqueue_origin (s : State) (o : Origin) (cmd : Command) : (s.enqueue o cmd).origin = s.origin := rfl
@[simp] theorem State.enqueue_sched (s : State) (o : Origin) (cmd : Command) : (s.enqueue o cmd).sched = s.sched := rfl
@[simp] theorem State.enqueue_draws (s : State) (o : Origin) (cmd : Command) : (s.enqueue o cmd).draws = s.draws := rfl
@[simp] theorem State.enqueue_cell (s : State) (o : Origin) (cmd : Command) (b : Addr) : (s.enqueue o cmd).cell b = s.cell b := rfl
@[simp] theorem State.enqueue_robsAt (s : State) (o : Origin) (cmd : Command) (b : Addr) : (s.enqueue o cmd).robsAt b = s.robsAt b := rfl
@[simp] theorem State.enqueue_wobsAt (s : State) (o : Origin) (cmd : Command) (b : Addr) : (s.enqueue o cmd).wobsAt b = s.wobsAt b := rfl
@[simp] theorem State.enqueue_sigOf (s : State) (o : Origin) (cmd : Command) (j : Group) : (s.enqueue o cmd).sigOf j = s.sigOf j := rfl
@[simp] theorem State.enqueue_loopOf (s : State) (o : Origin) (cmd : Command) (j : Group) : (s.enqueue o cmd).loopOf j = s.loopOf j := rfl
@[simp] theorem State.enqueue_snapOf (s : State) (o : Origin) (cmd : Command) (j : Group) : (s.enqueue o cmd).snapOf j = s.snapOf j := rfl
@[simp] theorem State.enqueue_isActive (s : State) (o : Origin) (cmd : Command) (b : Addr) : (s.enqueue o cmd).isActive b = s.isActive b := rfl
@[simp] theorem State.enqueue_reg (s : State) (c : Config) (o : Origin) (cmd : Command) (r : RegName) : (s.enqueue o cmd).reg c r = s.reg c r := rfl

/-! ## Components of a group -/

@[simp] theorem PerGroup.get_set_same {α : Type} (x : PerGroup α) (g : Group) (v : α) : (x.set g v).get g = v := by
  cases g <;> rfl

theorem PerGroup.get_set_other {α : Type} (x : PerGroup α) {g j : Group} (v : α) (h : j ≠ g) :
    (x.set g v).get j = x.get j := by
  cases g <;> cases j <;> first | rfl | exact absurd rfl h

theorem PerGroup.ext_get {α : Type} {x y : PerGroup α} (h : ∀ g, x.get g = y.get g) : x = y := by
  cases x; cases y
  simpa only [PerGroup.mk.injEq] using ⟨h .gpio, h .rtc, h .dac, h .uart⟩

theorem State.sigOf_setSig (s : State) (g j : Group) (n : Word) :
    (s.setSig g n).sigOf j = if j = g then n else s.sigOf j := by
  cases g <;> cases j <;> rfl

theorem State.loopOf_setLoop (s : State) (g j : Group) (l : LoopState) :
    (s.setLoop g l).loopOf j = if j = g then l else s.loopOf j := by
  cases g <;> cases j <;> rfl

theorem State.snapOf_setSnap (s : State) (g j : Group) (m : Word) :
    (s.setSnap g m).snapOf j = if j = g then m else s.snapOf j := by
  cases g <;> cases j <;> rfl

theorem State.sigOf_releaseSignal (s : State) (g j : Group) :
    (s.releaseSignal g).sigOf j = if j = g then sigUp (s.sigOf g) else s.sigOf j :=
  State.sigOf_setSig s g j _

theorem State.sigOf_takeSignal (s : State) (g j : Group) :
    (s.takeSignal g).sigOf j = if j = g then s.sigOf g - 1 else s.sigOf j :=
  State.sigOf_setSig s g j _

theorem State.clearActive_of_empty {s : State} (h : s.active = []) : s.clearActive = s := by
  cases s; simp_all [State.clearActive]

@[simp] theorem State.popActive_pushActive (s : State) (a : Addr) (d : Dir) : (s.pushActive a d).popActive = s := rfl

@[simp] theorem State.isActive_clearActive (s : State) (a : Addr) : s.clearActive.isActive a = false := rfl

end Sys2Proof.Machine
end

