-- ==== Sys2Proof/Laws/Transaction.lean ====
section
/-! SUPPORT. What a piece of a transaction can do, said once for every shared operation: the relations it keeps, what
it leaves of `ACTIVE` and `FAULT`, and its exact result where no observer is registered. -/

namespace Sys2Proof.Machine

/-! ## Results of a piece of a transaction -/

@[simp] theorem TxResult.bind_ok {α β : Type} (v : α) (s : State) (f : α → State → TxResult β) :
    (TxResult.ok v s).bind f = f v s := rfl

@[simp] theorem TxResult.bind_halt {α β : Type} (s : State) (f : α → State → TxResult β) :
    (TxResult.halt s).bind f = .halt s := rfl

@[simp] theorem TxResult.state_ok {α : Type} (v : α) (s : State) : (TxResult.ok v s).state = s := rfl

@[simp] theorem TxResult.state_halt {α : Type} (s : State) : (TxResult.halt (α := α) s).state = s := rfl

theorem TxResult.bind_eq_ok {α β : Type} {r : TxResult α} {f : α → State → TxResult β} {w : β} {u : State} :
    r.bind f = .ok w u ↔ ∃ v t, r = .ok v t ∧ f v t = .ok w u := by
  cases r <;> simp [TxResult.bind]

theorem TxResult.bind_eq_halt {α β : Type} {r : TxResult α} {f : α → State → TxResult β} {u : State} :
    r.bind f = .halt u ↔ r = .halt u ∨ ∃ v t, r = .ok v t ∧ f v t = .halt u := by
  cases r <;> simp [TxResult.bind]

/-! ## Relations that every bus effect keeps -/

/-- A relation between states that holds across every elementary effect of a cascade. The only signal a cascade
releases is that of the GPIO group (R145). -/
structure Kept (R : State → State → Prop) : Prop where
  refl : ∀ s, R s s
  trans : ∀ s t u, R s t → R t u → R s u
  setCell : ∀ s a v, R s (s.setCell a v)
  setRobs : ∀ s a x, R s (s.setRobs a x)
  setWobs : ∀ s a o, R s (s.setWobs a o)
  release : ∀ s, R s (s.releaseSignal .gpio)
  setFault : ∀ s, R s s.setFault
  push : ∀ s a d, R s (s.pushActive a d)
  pop : ∀ s, R s s.popActive

/-- The runner keeps the relation. -/
def RunnerKeeps (R : State → State → Prop) (run : Runner) : Prop := ∀ a o ev s, R s (run a o ev s).state

section Keeps

variable {R : State → State → Prop} {run : Runner} (h : Kept R) (hr : RunnerKeeps R run)

include h

theorem TxResult.bind_keeps {α β : Type} {s : State} {r : TxResult α} {f : α → State → TxResult β}
    (h1 : R s r.state) (h2 : ∀ v t, R t (f v t).state) : R s (r.bind f).state := by
  cases r with
  | ok v t => exact h.trans _ _ _ h1 (h2 v t)
  | halt t => exact h1

include hr

theorem fireRead_keeps (a : Addr) (v : Word) (s : State) : R s (fireRead run a v s).state := by
  unfold fireRead
  split
  · exact hr _ _ _ _
  · exact h.refl s

theorem fireWrite_keeps (a : Addr) (old new : Word) (s : State) : R s (fireWrite run a old new s).state := by
  unfold fireWrite
  split
  · exact hr _ _ _ _
  · exact h.refl s

theorem busRead_keeps (a : Addr) (s : State) : R s (busRead run a s).state :=
  TxResult.bind_keeps h (fireRead_keeps h hr a _ s) fun _ t => h.refl t

theorem busStore_keeps (a : Addr) (old new : Word) (s : State) : R s (busStore run a old new s).state := by
  unfold busStore
  split
  · exact h.refl s
  · exact h.trans _ _ _ (h.setCell s a new) (fireWrite_keeps h hr a old new _)

theorem busWrite_keeps (a : Addr) (v : Word) (s : State) : R s (busWrite run a v s).state :=
  busStore_keeps h hr a _ v s

theorem busModify_keeps (a : Addr) (f : Word → Word) (s : State) : R s (busModify run a f s).state :=
  TxResult.bind_keeps h (fireRead_keeps h hr a _ s) fun _ t => busStore_keeps h hr a _ _ t

theorem assertTx_keeps (c : Config) (k : Source) (hk : ∀ s, R s (s.releaseSignal k.group)) (s : State) :
    R s (assertTx c run k s).state := by
  unfold assertTx
  split
  · exact h.setFault s
  · exact TxResult.bind_keeps h (busModify_keeps h hr _ _ s) fun _ t => hk t

theorem nestedRead_keeps (a : Addr) (s : State) : R s (nestedRead run a s).state := by
  unfold nestedRead
  split
  · exact h.setFault s
  · exact busRead_keeps h hr a s

theorem gpioInProducer_keeps (c : Config) (p : Port) (old new : Word) (s : State) :
    R s (gpioInProducer c run p old new s).state := by
  refine TxResult.bind_keeps h (nestedRead_keeps h hr _ s) fun en t => ?_
  split
  · exact assertTx_keeps h hr c p.source (by cases p <;> exact h.release) t
  · exact h.refl t

theorem nestedEffect_keeps (i : Instr) (s : State) : R s (nestedEffect run i s).state := by
  cases i with
  | rd a => exact TxResult.bind_keeps h (busRead_keeps h hr a s) fun _ t => h.refl t
  | wr a v => exact busWrite_keeps h hr a v s
  | mand a imm => exact busModify_keeps h hr a (fun x => x &&& imm) s
  | mor a imm => exact busModify_keeps h hr a (fun x => x ||| imm) s
  | mxor a imm => exact busModify_keeps h hr a (fun x => x ^^^ imm) s
  | setrobs a x p => exact h.setRobs s a _
  | setwobsGpioIn a p =>
    simp only [nestedEffect]
    split
    · exact h.setWobs s a _
    · exact h.refl s
  | setwobsExternal a x p => exact h.setWobs s a _
  | drd a => exact TxResult.bind_keeps h (busRead_keeps h hr a s) fun _ t => h.refl t
  | dwr a v => exact busWrite_keeps h hr a v s
  | rtctick => exact h.refl s
  | dactick => exact h.refl s
  | uartrx b => exact h.refl s
  | assertSource k => exact h.refl s
  | hret k => exact h.refl s

theorem nested_keeps (cmd : Command) (s : State) : R s (nested run cmd s).state := by
  unfold nested
  split
  · exact h.setFault s
  · split
    · exact nestedEffect_keeps h hr _ s
    · exact h.refl s

theorem nestedAll_keeps (l : List Command) (s : State) : R s (nestedAll run l s).state := by
  induction l generalizing s with
  | nil => exact h.refl s
  | cons cmd l ih => exact TxResult.bind_keeps h (nested_keeps h hr cmd s) fun _ t => ih t

theorem observerBody_keeps (c : Config) (o : Observer) (ev : Event) (s : State) :
    R s (observerBody c run o ev s).state := by
  cases o with
  | gpioIn p =>
    cases ev with
    | read v => exact h.refl s
    | write old new => exact gpioInProducer_keeps h hr c p old new s
  | external x => exact nestedAll_keeps h hr _ s

omit hr

theorem runObserver_keeps (c : Config) (n : Nat) : RunnerKeeps R (runObserver c n) := by
  induction n with
  | zero => exact fun _ _ _ s => h.setFault s
  | succ n ih =>
    intro a o ev s
    refine TxResult.bind_keeps h ?_ fun _ t => h.pop t
    exact h.trans _ _ _ (h.push s a ev.dir) (observerBody_keeps h ih c o ev _)

/-- Every relation that the elementary effects keep, a whole cascade keeps. -/
theorem cascade_keeps (c : Config) : RunnerKeeps R (cascade c) := runObserver_keeps h c cascadeDepth

end Keeps

/-! ## `ACTIVE` and `FAULT` across a piece of a transaction -/

/-- A piece that went on left `ACTIVE` and `FAULT` as they were; one that stopped has recorded the fault. -/
def TxResult.Settled {α : Type} (s : State) : TxResult α → Prop
  | .ok _ t => t.active = s.active ∧ t.fault = s.fault
  | .halt t => t.fault = some .reentrant

/-- The runner settles. -/
def RunnerSettles (run : Runner) : Prop := ∀ a o ev s, (run a o ev s).Settled s

section Settles

theorem TxResult.Settled.bind {α β : Type} {s : State} {r : TxResult α} {f : α → State → TxResult β}
    (h1 : r.Settled s) (h2 : ∀ v t, (f v t).Settled t) : (r.bind f).Settled s := by
  cases r with
  | halt t => exact h1
  | ok v t =>
    have h3 := h2 v t
    simp only [TxResult.Settled] at h1
    rw [TxResult.bind_ok]
    cases hf : f v t with
    | ok w u =>
      rw [hf] at h3
      exact ⟨h3.1.trans h1.1, h3.2.trans h1.2⟩
    | halt u =>
      rw [hf] at h3
      exact h3

theorem TxResult.Settled.ok {α : Type} (v : α) (s : State) : (TxResult.ok v s).Settled s := ⟨rfl, rfl⟩

theorem raiseFault_settled {α : Type} (s t : State) : (raiseFault (α := α) t).Settled s := rfl

variable {run : Runner} (hr : RunnerSettles run)

include hr

theorem fireRead_settled (a : Addr) (v : Word) (s : State) : (fireRead run a v s).Settled s := by
  unfold fireRead
  split
  · exact hr _ _ _ _
  · exact .ok _ s

theorem fireWrite_settled (a : Addr) (old new : Word) (s : State) : (fireWrite run a old new s).Settled s := by
  unfold fireWrite
  split
  · exact hr _ _ _ _
  · exact .ok _ s

theorem busRead_settled (a : Addr) (s : State) : (busRead run a s).Settled s :=
  (fireRead_settled hr a _ s).bind fun _ t => .ok _ t

theorem busStore_settled (a : Addr) (old new : Word) (s : State) : (busStore run a old new s).Settled s := by
  unfold busStore
  split
  · exact .ok _ s
  · exact fireWrite_settled hr a old new (s.setCell a new)

theorem busWrite_settled (a : Addr) (v : Word) (s : State) : (busWrite run a v s).Settled s :=
  busStore_settled hr a _ v s

theorem busModify_settled (a : Addr) (f : Word → Word) (s : State) : (busModify run a f s).Settled s :=
  (fireRead_settled hr a _ s).bind fun _ t => busStore_settled hr a _ _ t

theorem assertTx_settled (c : Config) (k : Source) (s : State) : (assertTx c run k s).Settled s := by
  unfold assertTx
  split
  · exact raiseFault_settled s s
  · exact (busModify_settled hr _ _ s).bind fun _ t => ⟨rfl, rfl⟩

theorem nestedRead_settled (a : Addr) (s : State) : (nestedRead run a s).Settled s := by
  unfold nestedRead
  split
  · exact raiseFault_settled s s
  · exact busRead_settled hr a s

theorem gpioInProducer_settled (c : Config) (p : Port) (old new : Word) (s : State) :
    (gpioInProducer c run p old new s).Settled s := by
  refine (nestedRead_settled hr _ s).bind fun en t => ?_
  split
  · exact assertTx_settled hr c _ t
  · exact .ok _ t

theorem nestedEffect_settled (i : Instr) (s : State) : (nestedEffect run i s).Settled s := by
  cases i with
  | rd a => exact (busRead_settled hr a s).bind fun _ t => .ok _ t
  | wr a v => exact busWrite_settled hr a v s
  | mand a imm => exact busModify_settled hr a (fun x => x &&& imm) s
  | mor a imm => exact busModify_settled hr a (fun x => x ||| imm) s
  | mxor a imm => exact busModify_settled hr a (fun x => x ^^^ imm) s
  | setrobs a x p => exact ⟨rfl, rfl⟩
  | setwobsGpioIn a p =>
    simp only [nestedEffect]
    split
    · exact ⟨rfl, rfl⟩
    · exact .ok _ s
  | setwobsExternal a x p => exact ⟨rfl, rfl⟩
  | drd a => exact (busRead_settled hr a s).bind fun _ t => .ok _ t
  | dwr a v => exact busWrite_settled hr a v s
  | rtctick => exact .ok _ s
  | dactick => exact .ok _ s
  | uartrx b => exact .ok _ s
  | assertSource k => exact .ok _ s
  | hret k => exact .ok _ s

theorem nested_settled (cmd : Command) (s : State) : (nested run cmd s).Settled s := by
  unfold nested
  split
  · exact raiseFault_settled s s
  · split
    · exact nestedEffect_settled hr _ s
    · exact .ok _ s

theorem nestedAll_settled (l : List Command) (s : State) : (nestedAll run l s).Settled s := by
  induction l generalizing s with
  | nil => exact .ok _ s
  | cons cmd l ih => exact (nested_settled hr cmd s).bind fun _ t => ih t

theorem observerBody_settled (c : Config) (o : Observer) (ev : Event) (s : State) :
    (observerBody c run o ev s).Settled s := by
  cases o with
  | gpioIn p =>
    cases ev with
    | read v => exact .ok _ s
    | write old new => exact gpioInProducer_settled hr c p old new s
  | external x => exact nestedAll_settled hr _ s

omit hr

theorem runObserver_settles (c : Config) (n : Nat) : RunnerSettles (runObserver c n) := by
  induction n with
  | zero => exact fun _ _ _ s => raiseFault_settled s s
  | succ n ih =>
    intro a o ev s
    have hb := observerBody_settled ih c o ev (s.pushActive a ev.dir)
    simp only [runObserver]
    cases hf : observerBody c (runObserver c n) o ev (s.pushActive a ev.dir) with
    | ok v t =>
      rw [hf] at hb
      obtain ⟨h1, h2⟩ := hb
      rw [TxResult.bind_ok]
      exact ⟨by rw [State.popActive_active, h1, State.pushActive_active]; rfl, h2⟩
    | halt t =>
      rw [hf] at hb
      exact hb

/-- `RunObserver` pushes and pops in balance, and only a fault stops it (R103, R214). -/
theorem cascade_settles (c : Config) : RunnerSettles (cascade c) := runObserver_settles c cascadeDepth

end Settles

/-! ## The exact result where no observer is registered -/

theorem fireRead_of_none {run : Runner} {a : Addr} {v : Word} {s : State} (h : s.robsAt a = none) :
    fireRead run a v s = .ok () s := by
  simp [fireRead, h]

theorem fireWrite_of_none {run : Runner} {a : Addr} {old new : Word} {s : State} (h : s.wobsAt a = none) :
    fireWrite run a old new s = .ok () s := by
  simp [fireWrite, h]

theorem busRead_of_none {run : Runner} {a : Addr} {s : State} (h : s.robsAt a = none) :
    busRead run a s = .ok (s.cell a) s := by
  simp [busRead, fireRead_of_none h]

/-- A store of the value the cell holds already is no store (R105). -/
theorem busStore_same {run : Runner} {a : Addr} {v : Word} {s : State} : busStore run a v v s = .ok () s := by
  simp [busStore]

theorem assocErase_of_none {β : Type} {m : List (Addr × β)} {a : Addr} (h : assocGet m a = none) :
    assocErase m a = m := by
  induction m with
  | nil => rfl
  | cons x m ih =>
    obtain ⟨k, w⟩ := x
    by_cases hk : k = a
    · simp [assocGet, hk] at h
    · simp only [assocGet, hk, if_false] at h
      simp [assocErase, hk, ih h]

theorem assocPut_of_some {β : Type} {m : List (Addr × β)} (hm : assocSorted m) {a : Addr} {v : β}
    (h : assocGet m a = some v) : assocPut m a v = m := by
  refine assoc_ext (assocSorted_put hm a v) hm fun b => ?_
  by_cases hb : b = a
  · subst hb
    rw [assocGet_put_same, h]
  · exact assocGet_put_other m v hb

/-- On a canonical memory, storing what is there changes nothing. -/
theorem State.setCell_self {s : State} (hs : s.cells.wf) (a : Addr) : s.setCell a (s.cell a) = s := by
  have : s.cells.write a (s.cells.read a) = s.cells := by
    refine Memory.ext_read (Memory.wf_write hs a _) hs fun b => ?_
    by_cases hb : b = a
    · subst hb
      exact Memory.read_write_same hs b _
    · exact Memory.read_write_other s.cells _ hb
  cases s
  simp only [State.setCell, State.cell, State.mk.injEq, and_true]
  exact this

/-- With no write observer, a store is the store and nothing else. -/
theorem busStore_of_none {run : Runner} {a : Addr} {v : Word} {s : State} (hs : s.cells.wf)
    (h : s.wobsAt a = none) : busStore run a (s.cell a) v s = .ok () (s.setCell a v) := by
  unfold busStore
  split
  · rename_i e
    rw [e, State.setCell_self hs]
  · rw [fireWrite_of_none (by simpa using h)]

theorem busWrite_of_none {run : Runner} {a : Addr} {v : Word} {s : State} (hs : s.cells.wf)
    (h : s.wobsAt a = none) : busWrite run a v s = .ok () (s.setCell a v) := busStore_of_none hs h

theorem busModify_of_none {run : Runner} {a : Addr} {f : Word → Word} {s : State} (hs : s.cells.wf)
    (hr : s.robsAt a = none) (hw : s.wobsAt a = none) :
    busModify run a f s = .ok () (s.setCell a (f (s.cell a))) := by
  rw [busModify, fireRead_of_none hr, TxResult.bind_ok, busStore_of_none hs hw]

theorem assertTx_of_none {c : Config} {run : Runner} {k : Source} {s : State} (hs : s.cells.wf)
    (ha : s.isActive (c.addr .pend) = false) (hr : s.robsAt (c.addr .pend) = none)
    (hw : s.wobsAt (c.addr .pend) = none) :
    assertTx c run k s =
      .ok () ((s.setCell (c.addr .pend) (s.reg c .pend ||| k.bit)).releaseSignal k.group) := by
  rw [assertTx, busModify_of_none hs hr hw]
  simp [ha, State.reg]

/-! ## Commands -/

theorem command_refused {tx : State → TxResult Word} {s : State} :
    command false tx s = s.respond (.error errOrigin) := rfl

theorem command_allowed {tx : State → TxResult Word} {s : State} :
    command true tx s = closeCommand (tx s.clearActive) := rfl

@[simp] theorem closeCommand_ok (v : Word) (s : State) :
    closeCommand (.ok v s) = s.clearActive.respond (.success v) := rfl

@[simp] theorem closeCommand_halt (s : State) : closeCommand (.halt s) = s.clearActive.noResponse := rfl

@[simp] theorem noData_ok (s : State) : noData (.ok () s) = .ok 0 s := rfl

@[simp] theorem noData_halt (s : State) : noData (.halt s) = .halt s := rfl

/-- Whatever a command's transaction does, `ACTIVE` is empty after it (R41). -/
theorem closeCommand_active (r : TxResult Word) : (closeCommand r).active = [] := by cases r <;> rfl

theorem noData_state (r : TxResult Unit) : (noData r).state = r.state := by cases r <;> rfl

end Sys2Proof.Machine
end

