-- ==== Sys2Proof/Laws/Commands.lean ====
section
/-! SUPPORT. What a command and a step can do, said once: the relations they keep, how a command ends, and the failures.
Later claims cite these and do not unfold the meanings. -/

namespace Sys2Proof.Machine

/-! ## Relations that every command keeps -/

/-- A relation kept by everything a command does but appending a sample (DACTICK) and returning from a hook (HRET). -/
structure CommandKept (R : State → State → Prop) : Prop extends Kept R where
  releaseAny : ∀ s g, R s (s.releaseSignal g)
  clear : ∀ s, R s s.clearActive
  respond : ∀ s r, R s (s.respond r)
  silent : ∀ s, R s s.noResponse

section Keeps

variable {R : State → State → Prop} (h : CommandKept R)

include h

theorem closeCommand_keeps {s : State} {r : TxResult Word} (hr : R s r.state) : R s (closeCommand r) := by
  cases r with
  | ok v t => exact h.trans _ _ _ hr (h.trans _ _ _ (h.clear t) (h.respond _ _))
  | halt t => exact h.trans _ _ _ hr (h.trans _ _ _ (h.clear t) (h.silent _))

theorem command_keeps (allowed : Bool) {tx : State → TxResult Word} (s : State)
    (htx : ∀ t, R t (tx t).state) : R s (command allowed tx s) := by
  cases allowed with
  | false => exact h.respond _ _
  | true => exact h.trans _ _ _ (h.clear s) (closeCommand_keeps h (htx _))

theorem command_noData_keeps (allowed : Bool) {tx : State → TxResult Unit} (s : State)
    (htx : ∀ t, R t (tx t).state) : R s (command allowed (fun t => noData (tx t)) s) :=
  command_keeps h allowed s fun t => by rw [noData_state]; exact htx t

theorem rtctickTx_keeps {run : Runner} (hr : RunnerKeeps R run) (c : Config) (s : State) :
    R s (rtctickTx c run s).state := by
  refine TxResult.bind_keeps h.toKept (busRead_keeps h.toKept hr _ s) fun ctrl s => ?_
  split
  · refine TxResult.bind_keeps h.toKept (busRead_keeps h.toKept hr _ s) fun cnt s => ?_
    refine TxResult.bind_keeps h.toKept (busWrite_keeps h.toKept hr _ _ s) fun _ s => ?_
    split
    · refine TxResult.bind_keeps h.toKept (busRead_keeps h.toKept hr _ s) fun cmp s => ?_
      split
      · exact assertTx_keeps h.toKept hr c _ (fun s => h.releaseAny s _) s
      · exact h.refl s
    · exact h.refl s
  · exact h.refl s

theorem dactickTx_keeps {run : Runner} (hr : RunnerKeeps R run) (c : Config)
    (happ : ∀ s v, R s (s.appendSample c v)) (s : State) : R s (dactickTx c run s).state := by
  refine TxResult.bind_keeps h.toKept (busRead_keeps h.toKept hr _ s) fun ctrl s => ?_
  split
  · refine TxResult.bind_keeps h.toKept (busRead_keeps h.toKept hr _ s) fun d s => ?_
    simp only
    split
    · exact h.trans _ _ _ (happ s _) (assertTx_keeps h.toKept hr c _ (fun s => h.releaseAny s _) _)
    · exact happ s _
  · exact h.refl s

theorem uartrxTx_keeps {run : Runner} (hr : RunnerKeeps R run) (c : Config) (b : Byte) (s : State) :
    R s (uartrxTx c run b s).state := by
  refine TxResult.bind_keeps h.toKept (busWrite_keeps h.toKept hr _ _ s) fun _ s => ?_
  refine TxResult.bind_keeps h.toKept (busWrite_keeps h.toKept hr _ _ s) fun _ s => ?_
  refine TxResult.bind_keeps h.toKept (busRead_keeps h.toKept hr _ s) fun ctrl s => ?_
  split
  · exact assertTx_keeps h.toKept hr c _ (fun s => h.releaseAny s _) s
  · exact h.refl s

/-- Everything a command can do is in the relation, under every observer. -/
theorem exec_keeps (i : Instr) (happ : i = .dactick → ∀ s v, R s (s.appendSample Config.current v))
    (hloop : ∀ k, i = .hret k → ∀ s src, R s (leaveHook src s)) {s t : State} (e : exec i s = .next t) : R s t := by
  have hr : RunnerKeeps R (cascade Config.current) := cascade_keeps h.toKept Config.current
  cases i with
  | rd a =>
    obtain rfl := Host.Outcome.next.inj e
    exact command_keeps h _ s fun t => busRead_keeps h.toKept hr a t
  | wr a v =>
    obtain rfl := Host.Outcome.next.inj e
    exact command_noData_keeps h _ s fun t => busWrite_keeps h.toKept hr a v t
  | mand a imm =>
    obtain rfl := Host.Outcome.next.inj e
    exact command_noData_keeps h _ s fun t => busModify_keeps h.toKept hr a _ t
  | mor a imm =>
    obtain rfl := Host.Outcome.next.inj e
    exact command_noData_keeps h _ s fun t => busModify_keeps h.toKept hr a _ t
  | mxor a imm =>
    obtain rfl := Host.Outcome.next.inj e
    exact command_noData_keeps h _ s fun t => busModify_keeps h.toKept hr a _ t
  | setrobs a x p =>
    obtain rfl := Host.Outcome.next.inj e
    exact command_noData_keeps h _ s fun t => h.setRobs t a _
  | setwobsGpioIn a p =>
    obtain rfl := Host.Outcome.next.inj e
    unfold setwobsGpioInOn
    split
    · exact command_noData_keeps h _ s fun t => h.setWobs t a _
    · exact h.respond _ _
  | setwobsExternal a x p =>
    obtain rfl := Host.Outcome.next.inj e
    exact command_noData_keeps h _ s fun t => h.setWobs t a _
  | drd a =>
    obtain rfl := Host.Outcome.next.inj e
    exact command_keeps h _ s fun t => busRead_keeps h.toKept hr a t
  | dwr a v =>
    obtain rfl := Host.Outcome.next.inj e
    exact command_noData_keeps h _ s fun t => busWrite_keeps h.toKept hr a v t
  | rtctick =>
    obtain rfl := Host.Outcome.next.inj e
    exact command_noData_keeps h _ s fun t => rtctickTx_keeps h hr _ t
  | dactick =>
    obtain rfl := Host.Outcome.next.inj e
    exact command_noData_keeps h _ s fun t => dactickTx_keeps h hr _ (happ rfl) t
  | uartrx b =>
    obtain rfl := Host.Outcome.next.inj e
    exact command_noData_keeps h _ s fun t => uartrxTx_keeps h hr _ b t
  | assertSource k =>
    obtain rfl := Host.Outcome.next.inj e
    unfold assertOn
    split
    · exact command_noData_keeps h _ s fun t => assertTx_keeps h.toKept hr _ _ (fun s => h.releaseAny s _) t
    · exact h.respond _ _
  | hret k =>
    obtain rfl := Host.Outcome.next.inj e
    unfold hretOn
    split
    · exact h.respond _ _
    · split
      · split
        · exact closeCommand_keeps h (hloop k rfl s _)
        · exact h.respond _ _
      · exact h.respond _ _

/-- The wake step's transaction is in the relation if taking the signal, the snapshot and the move to `SCAN` are. -/
theorem wakeOn_keeps (c : Config) (g : Group) (htake : ∀ s, R s (s.takeSignal g))
    (hsnap : ∀ s p, R s (s.setSnap g (p &&& g.mask))) (hscan : ∀ s, R s (s.setLoop g .scan)) (s : State) :
    R s (wakeOn c g s) := by
  have hr : RunnerKeeps R (cascade c) := cascade_keeps h.toKept c
  have htx : R s.clearActive (wakeTx c (cascade c) g s.clearActive).state := by
    refine TxResult.bind_keeps h.toKept ?_ fun p t => h.trans _ _ _ (hsnap t p) (hscan _)
    exact h.trans _ _ _ (htake _) (busRead_keeps h.toKept hr _ _)
  unfold wakeOn
  have close : ∀ r : TxResult Unit, R s.clearActive r.state → R s.clearActive (closeLoop r) := by
    intro r hr
    cases r with
    | ok v t => exact h.trans _ _ _ hr (h.clear t)
    | halt t => exact h.trans _ _ _ hr (h.clear t)
  exact h.trans _ _ _ (h.clear s) (close _ htx)

end Keeps

/-! ## How a step comes about -/

/-- A choice is an element of the list it is made from. -/
theorem pickAt_mem {α : Type} {l : List α} {n : Nat} {x : α} (h : pickAt l n = some x) : x ∈ l := by
  induction l generalizing n with
  | nil => simp [pickAt] at h
  | cons y l ih =>
    cases l with
    | nil => simp_all [pickAt]
    | cons z l =>
      cases n with
      | zero => simp_all [pickAt]
      | succ n => exact List.mem_cons_of_mem _ (ih h)

theorem pickAt_eq_none {α : Type} {l : List α} {n : Nat} : pickAt l n = none ↔ l = [] := by
  induction l generalizing n with
  | nil => simp [pickAt]
  | cons y l ih =>
    cases l with
    | nil => simp [pickAt]
    | cons z l =>
      cases n with
      | zero => simp [pickAt]
      | succ n => simpa [pickAt] using ih (n := n)

/-- Every element can be the choice. -/
theorem exists_pickAt {α : Type} {l : List α} {x : α} (h : x ∈ l) : ∃ n, pickAt l n = some x := by
  induction l with
  | nil => simp at h
  | cons y l ih =>
    cases l with
    | nil => exact ⟨0, by simp_all [pickAt]⟩
    | cons z l =>
      rcases List.mem_cons.1 h with rfl | h
      · exact ⟨0, rfl⟩
      · obtain ⟨n, hn⟩ := ih h
        exact ⟨n + 1, hn⟩

theorem chooseTurn_mem {c : Config} {s : State} {t : Turn} (h : chooseTurn c s = some t) : t ∈ enabledTurns s := by
  unfold chooseTurn at h
  split at h
  · split at h
    · simpa [← Option.some.inj h]
    · exact pickAt_mem h
  · exact pickAt_mem h

theorem chooseTurn_eq_none {c : Config} {s : State} : chooseTurn c s = none ↔ enabledTurns s = [] := by
  unfold chooseTurn
  split
  · split
    · rename_i hm
      simp only [reduceCtorEq, false_iff]
      exact List.ne_nil_of_mem hm
    · exact pickAt_eq_none
  · exact pickAt_eq_none

/-- What a step can be: a grant of the chosen step, or a hold with no step enabled. -/
theorem step_cases {s t : State} (h : step s = .next t) :
    s.fault = none ∧ ((enabledTurns s = [] ∧ t = s) ∨
      ∃ u, chooseTurn Config.current s = some u ∧ runTurn u s.drawn = .next t) := by
  unfold step arbiterStep at h
  split at h
  · cases h
  · rename_i hf
    refine ⟨hf, ?_⟩
    split at h
    · exact .inr ⟨_, ‹_›, h⟩
    · exact .inl ⟨chooseTurn_eq_none.1 ‹_›, (Host.Outcome.next.inj h).symm⟩

/-- A step with a choice made is the grant of it (R230). -/
theorem step_of_choose {s : State} {t : Turn} (hf : s.fault = none) (hc : chooseTurn Config.current s = some t) :
    step s = runTurn t s.drawn := by
  unfold step arbiterStep
  rw [hf, hc]

/-- A grant chosen in advance is taken if it is enabled. -/
theorem chooseTurn_of_sched {c : Config} {s : State} {t : Turn} {l : List Turn} (hs : s.sched = t :: l)
    (ht : t ∈ enabledTurns s) : chooseTurn c s = some t := by
  unfold chooseTurn
  rw [hs]
  exact if_pos ht

/-- Who is not admitted: a hook outside a call of its group. -/
theorem admits_eq_false {s : State} {o : Origin} :
    s.admits o = false ↔ ∃ g, o = .hook g ∧ ∀ k, s.loopOf g ≠ .call k := by
  cases o with
  | hook g =>
    cases h : s.loopOf g <;> simp [State.admits, LoopState.inCall, h]
  | _ => simp [State.admits]

theorem mem_requesters {o : Origin} {l : List Request} : o ∈ requesters l ↔ ∃ r ∈ l, r.origin = o := by
  induction l with
  | nil => simp [requesters]
  | cons r l ih =>
    simp only [requesters, List.mem_cons, List.mem_filter, ih, exists_eq_or_imp]
    constructor
    · rintro (rfl | ⟨h, -⟩)
      · simp
      · exact .inr h
    · rintro (rfl | h)
      · simp
      · by_cases e : o = r.origin
        · exact .inl e
        · exact .inr ⟨h, by simpa using e⟩

/-- What granting a requester can be. -/
theorem runTurn_request_cases {o : Origin} {s t : State} (h : runTurn (.request o) s = .next t) :
    t = s ∨ ∃ cmd rest, takeHead o s.inbox = some (cmd, rest) ∧
      ((∃ i, decode cmd = .ok i ∧ exec i (s.accept o rest) = .next t) ∨
       (∃ e, decode cmd = .error e ∧ t = illegal (s.accept o rest))) := by
  unfold runTurn at h
  cases hh : takeHead o s.inbox with
  | none =>
    simp only [hh, Host.Outcome.next.injEq] at h
    exact .inl h.symm
  | some x =>
    obtain ⟨cmd, rest⟩ := x
    simp only [hh] at h
    refine .inr ⟨cmd, rest, rfl, ?_⟩
    unfold runCommand at h
    cases hd : decode cmd with
    | ok i =>
      simp only [hd] at h
      exact .inl ⟨i, rfl, h⟩
    | error e =>
      simp only [hd, Host.Outcome.next.injEq] at h
      exact .inr ⟨e, rfl, h.symm⟩

/-! ## Presenting a command -/

/-- A hook's command outside a call fails, whatever it is (R88, R213). -/
theorem exec_outside_call {s : State} {g : Group} (i : Instr) (ho : s.origin = .hook g)
    (hg : ∀ k, s.loopOf g ≠ .call k) : ∃ code, exec i s = .next (s.respond (.error code)) := by
  have hb : mayUseBus s = false := by
    have h := admits_eq_false.2 ⟨g, rfl, hg⟩
    simpa [mayUseBus, ho, State.admits] using h
  cases i with
  | setwobsGpioIn a p =>
    cases h : Port.ofIndex p.toNat <;> exact ⟨_, by simp only [exec, execSetwobsGpioIn, setwobsGpioInOn, h, hb]; rfl⟩
  | assertSource k =>
    cases h : Source.ofAux k <;> exact ⟨_, by simp only [exec, execAssert, assertOn, h, ho]; rfl⟩
  | hret k =>
    cases h : Source.ofAux k with
    | none => exact ⟨_, by simp only [exec, execHret, hretOn, h]; rfl⟩
    | some src =>
      by_cases e : g = src.group
      · subst e
        exact ⟨errNoCall, by simp [exec, execHret, hretOn, h, ho, hg]⟩
      · exact ⟨errOrigin, by simp [exec, execHret, hretOn, h, ho, e]⟩
  | _ =>
    exact ⟨errOrigin, by
      simp [exec, execRd, rdOn, execWr, wrOn, execMand, mandOn, execMor, morOn, execMxor, mxorOn, execSetrobs, setrobsOn,
        execSetwobsExternal, setwobsExternalOn, execDrd, drdOn, execDwr, dwrOn, execRtctick, rtctickOn, execDactick,
        dactickOn, execUartrx, uartrxOn, command, hb, ho]⟩

/-- What refusing a command that is not admitted does: the port is answered with an error and nothing else changes. -/
theorem refuse_eq {s : State} {o : Origin} (h : s.admits o = false) (cmd : Command) :
    ∃ code, s.refuse o cmd = { s with origin := o, resp := some (o, .error code) } := by
  obtain ⟨g, rfl, hg⟩ := admits_eq_false.1 h
  unfold State.refuse runCommand
  cases decode cmd with
  | error e => exact ⟨errIllegal, rfl⟩
  | ok i =>
    obtain ⟨code, e⟩ := exec_outside_call (s := { s with origin := .hook g }) i rfl hg
    exact ⟨code, by simp only [e]; rfl⟩

/-- What presenting a command can do: it joins the queue of its port, or its port is answered with an error. -/
theorem present_cases (s : State) (o : Origin) (cmd : Command) :
    s.present o cmd = { s with inbox := s.inbox ++ [⟨o, cmd⟩] } ∨
      ∃ code, s.present o cmd = { s with origin := o, resp := some (o, .error code) } := by
  unfold State.present
  split
  · exact .inr (refuse_eq (by simp_all) cmd)
  · exact .inl rfl

/-- Whatever an input other than reset does is in a relation that a change of the queues and an answer are in. -/
theorem input_keeps {R : State → State → Prop} (refl : ∀ s, R s s) (trans : ∀ s t u, R s t → R t u → R s u)
    (queue : ∀ (s : State) l, R s { s with inbox := l })
    (answer : ∀ (s : State) o r, R s { s with origin := o, resp := r }) {c : Config} {x : HostInput} (hx : x ≠ .reset)
    (s : State) : R s (hostInput c x s) := by
  have hp : ∀ s o cmd, R s (s.present o cmd) := by
    intro s o cmd
    obtain e | ⟨code, e⟩ := present_cases s o cmd <;> rw [e]
    · exact queue s _
    · exact answer s _ _
  have hall : ∀ (l : List Instr) o s, R s (s.presentAll o l) := by
    intro l o
    induction l with
    | nil => exact refl
    | cons i l ih => exact fun s => trans _ _ _ (hp s o _) (ih _)
  cases x with
  | reset => exact absurd rfl hx
  | present p cmd => exact hp s _ cmd
  | facade p op =>
    simp only [hostInput]
    split
    · exact hall _ _ s
    · exact refl s

/-! ## The scan step -/

theorem nextSource_mem {c : Config} {g : Group} {s : State} {k : Source} (h : nextSource c g s = some k) :
    k.group = g ∧ (s.snapOf g).getLsbD k.index = true := by
  have hk : k ∈ snapSources g (s.snapOf g) := by
    unfold nextSource at h
    split at h
    · exact List.mem_of_mem_head? (by simpa using h)
    · exact pickAt_mem h
  simpa [snapSources, Group.sources, Source.mem_all, and_comm] using hk

theorem nextSource_eq_none {c : Config} {g : Group} {s : State} :
    nextSource c g s = none ↔ snapSources g (s.snapOf g) = [] := by
  unfold nextSource
  split
  · exact List.head?_eq_none_iff
  · exact pickAt_eq_none

/-- A masked snapshot with no bit of a source of its group is empty. -/
theorem snap_eq_zero_of_no_source {g : Group} {m : Word} (hm : m &&& ~~~ g.mask = 0) (h : snapSources g m = []) :
    m = 0 := by
  have hs : ∀ k : Source, k.group = g → m.getLsbD k.index = false := by
    intro k hk
    have : k ∉ snapSources g m := by simp [h]
    simpa [snapSources, Group.sources, Source.mem_all, hk] using this
  apply BitVec.eq_of_getLsbD_eq
  intro j hj
  have hj' := congrArg (fun x : Word => x.getLsbD j) hm
  simp only [BitVec.getLsbD_and, BitVec.getLsbD_not, hj, decide_true, Bool.true_and] at hj'
  cases hb : g.mask.getLsbD j with
  | false => simpa [hb] using hj'
  | true =>
    have : ∃ k : Source, k.group = g ∧ k.index = j := by
      clear hm h hs hj'
      revert hb
      cases g <;> interval_cases j <;> intro hb <;>
        first
          | exact ⟨.portA, rfl, rfl⟩
          | exact ⟨.portB, rfl, rfl⟩
          | exact ⟨.portC, rfl, rfl⟩
          | exact ⟨.portD, rfl, rfl⟩
          | exact ⟨.rtc, rfl, rfl⟩
          | exact ⟨.dac, rfl, rfl⟩
          | exact ⟨.uart, rfl, rfl⟩
          | exact absurd hb (by decide)
    obtain ⟨k, hg, rfl⟩ := this
    simpa using hs k hg

/-! ## What every step keeps -/

/-- A relation that holds across everything any step does. -/
structure StepKept (R : State → State → Prop) : Prop extends CommandKept R where
  append : ∀ s v, R s (s.appendSample Config.current v)
  leave : ∀ s src, R s (leaveHook src s)
  take : ∀ s g, R s (s.takeSignal g)
  snapshot : ∀ s g p, R s (s.setSnap g (p &&& g.mask))
  toScan : ∀ s g, R s (s.setLoop g .scan)
  toWait : ∀ s g, R s (s.setLoop g .wait)
  dispatch : ∀ s k, R s (dispatchSource Config.current k.group k s)
  drawn : ∀ s : State, R s s.drawn
  accept : ∀ (s : State) o l, R s (s.accept o l)

/-- Whatever a step does is in the relation, under every observer. -/
theorem step_keeps {R : State → State → Prop} (h : StepKept R) {s t : State} (e : step s = .next t) : R s t := by
  obtain ⟨-, ⟨-, rfl⟩ | ⟨u, -, hr⟩⟩ := step_cases e
  · exact h.refl t
  · refine h.trans _ _ _ (h.drawn s) ?_
    cases u with
    | request o =>
      rcases runTurn_request_cases hr with rfl | ⟨cmd, rest, -, ⟨i, -, he⟩ | ⟨e, -, rfl⟩⟩
      · exact h.refl _
      · exact h.trans _ _ _ (h.accept _ _ _)
          (exec_keeps h.toCommandKept i (fun _ => h.append) (fun _ _ s src => h.leave s src) he)
      · exact h.trans _ _ _ (h.accept _ _ _) (h.respond _ _)
    | wake g =>
      obtain rfl := Host.Outcome.next.inj hr
      exact wakeOn_keeps h.toCommandKept _ g (fun s => h.take s g) (fun s p => h.snapshot s g p)
        (fun s => h.toScan s g) _
    | scan g =>
      obtain rfl := Host.Outcome.next.inj hr
      unfold scanOn
      split
      · rename_i k hk
        have hg := (nextSource_mem hk).1
        subst hg
        exact h.dispatch _ k
      · exact h.toWait _ g

/-- Every memory operation of a command keeps the canonical form of the three maps. -/
theorem mapsWf_kept : CommandKept (fun s t : State => s.MapsWf → t.MapsWf) where
  refl _ h := h
  trans _ _ _ h1 h2 := h2 ∘ h1
  setCell _ _ _ h := ⟨Memory.wf_write h.cells _ _, h.robs, h.wobs⟩
  setRobs _ _ _ h := ⟨h.cells, assocSorted_put h.robs _ _, h.wobs⟩
  setWobs _ _ _ h := ⟨h.cells, h.robs, assocSorted_put h.wobs _ _⟩
  release _ h := ⟨h.cells, h.robs, h.wobs⟩
  setFault _ h := ⟨h.cells, h.robs, h.wobs⟩
  push _ _ _ h := ⟨h.cells, h.robs, h.wobs⟩
  pop _ h := ⟨h.cells, h.robs, h.wobs⟩
  releaseAny _ _ h := ⟨h.cells, h.robs, h.wobs⟩
  clear _ h := ⟨h.cells, h.robs, h.wobs⟩
  respond _ _ h := ⟨h.cells, h.robs, h.wobs⟩
  silent _ h := ⟨h.cells, h.robs, h.wobs⟩

/-- Only the four IN registers are watched after reset (R261). -/
theorem resetWobs_of_ne {c : Config} {a : Addr} (h : ∀ p, a ≠ c.addr (.gpioIn p)) :
    assocGet (resetWobs c) a = none := by
  simp [resetWobs, assocGet_put_other _ _ (h _), assocGet]

/-- After reset no observer watches a register that is no IN register. -/
theorem unobserved_reset {r : RegName} (h : ∀ p, r ≠ .gpioIn p) :
    State.reset.Unobserved (Config.current.addr r) :=
  ⟨rfl, resetWobs_of_ne fun p e => h p (Config.current.addr_injective e)⟩

theorem assocSorted_resetWobs (c : Config) : assocSorted (resetWobs c) :=
  assocSorted_put (assocSorted_put (assocSorted_put (assocSorted_put List.Pairwise.nil _ _) _ _) _ _) _ _

end Sys2Proof.Machine
end

