-- ==== Sys2Proof/Laws/Decode.lean ====
section
/-! SUPPORT. The fields of a header built by the encoder, and a header rebuilt from its fields: what a proof about the
format needs of its bits. -/

namespace Sys2Proof

@[simp] theorem header_op (op : BitVec 4) (aux : Byte) (a : Addr) (d : Word) : (Command.mk (header op aux) a d).op = op := by
  apply BitVec.eq_of_getLsbD_eq
  intro i hi
  simp only [Command.op, header]
  interval_cases i <;> simp

@[simp] theorem header_rsv (op : BitVec 4) (aux : Byte) (a : Addr) (d : Word) : (Command.mk (header op aux) a d).rsv = 0 := by
  apply BitVec.eq_of_getLsbD_eq
  intro i hi
  simp only [Command.rsv, header]
  interval_cases i <;> simp

@[simp] theorem header_aux (op : BitVec 4) (aux : Byte) (a : Addr) (d : Word) : (Command.mk (header op aux) a d).aux = aux := by
  apply BitVec.eq_of_getLsbD_eq
  intro i hi
  simp only [Command.aux, header]
  interval_cases i <;> simp

@[simp] theorem externalAux_bit7 (h : Handle) : (externalAux h).getLsbD 7 = true := by
  simp [externalAux]

@[simp] theorem externalAux_handle (h : Handle) : (externalAux h).extractLsb' 0 7 = h := by
  apply BitVec.eq_of_getLsbD_eq
  intro i hi
  simp only [externalAux]
  interval_cases i <;> simp

/-- A header whose `RSV` is 0 is made of its `OP` and its `AUX`. -/
theorem header_of_fields (c : Command) (h : c.rsv = 0) : header c.op c.aux = c.hdr := by
  apply BitVec.eq_of_getLsbD_eq
  intro i hi
  simp only [header, Command.op, Command.aux]
  have hr := fun j => congrArg (fun x : BitVec 4 => x.getLsbD j) h
  simp only [Command.rsv] at hr
  have h0 := hr 0
  have h1 := hr 1
  have h2 := hr 2
  have h3 := hr 3
  interval_cases i <;> simp_all

theorem externalAux_of_aux (c : Command) (hx : c.auxExternal = true) : externalAux c.auxHandle = c.aux := by
  apply BitVec.eq_of_getLsbD_eq
  intro i hi
  simp only [externalAux, Command.auxHandle, Command.auxExternal] at *
  interval_cases i <;> simp_all

/-- An `OP` is the numeral its value says. -/
theorem Command.op_eq_of_toNat (c : Command) {n : Nat} (h : c.op.toNat = n) : c.op = BitVec.ofNat 4 n := by
  rw [← h]
  simp

end Sys2Proof
end

