-- ==== Sys2Proof/Laws/PerInstr.lean ====
section
/-! SUPPORT. Facts about every instruction as syntax, one lemma per constructor. Family `Row`: the encoding of a
well-formed instruction is a word of the instruction's own row of the opcode table (R90). -/

namespace Sys2Proof.Laws.Row

/-- The `hdr` of a well-formed instruction's encoding matches the row of its mnemonic. -/
def Statement (i : Instr) : Prop :=
  i.wellFormed = true → ∃ r ∈ opcodeRows, r.mnemonic = i.mnemonic ∧ r.matches (encode i).hdr = true

/-- An external kind's `hdr` under the mask of its rows. -/
theorem external_matches (op : BitVec 4) (h : Handle) :
    header op (externalAux h) &&& 0x80FF = 0x8000 ||| op.setWidth 16 := by
  apply BitVec.eq_of_getLsbD_eq
  intro i hi
  simp only [header, externalAux]
  interval_cases i <;> simp

/-- A source form's `hdr` under the mask of its row. -/
theorem source_matches (op : BitVec 4) (k : Byte) : header op k &&& 0x00FF = op.setWidth 16 := by
  apply BitVec.eq_of_getLsbD_eq
  intro i hi
  simp only [header]
  interval_cases i <;> simp

/-- A `hdr` without a free field, as its row has it. -/
theorem plain_matches (op : BitVec 4) (k : Byte) (p : BitVec 16) (h : header op k &&& 0xFFFF = p) :
    (header op k &&& 0xFFFF == p) = true := beq_iff_eq.2 h

theorem rd (a : Addr) : Statement (.rd a) := fun _ => ⟨⟨"RD", 0x0000, 0xFFFF⟩, by decide, rfl, plain_matches 0x0 0 0x0000 (by decide)⟩

theorem wr (a : Addr) (v : Word) : Statement (.wr a v) := fun _ => ⟨⟨"WR", 0x0001, 0xFFFF⟩, by decide, rfl, plain_matches 0x1 0 0x0001 (by decide)⟩

theorem mand (a : Addr) (imm : Word) : Statement (.mand a imm) :=
  fun _ => ⟨⟨"MAND", 0x0002, 0xFFFF⟩, by decide, rfl, plain_matches 0x2 0 0x0002 (by decide)⟩

theorem mor (a : Addr) (imm : Word) : Statement (.mor a imm) :=
  fun _ => ⟨⟨"MOR", 0x0003, 0xFFFF⟩, by decide, rfl, plain_matches 0x3 0 0x0003 (by decide)⟩

theorem mxor (a : Addr) (imm : Word) : Statement (.mxor a imm) :=
  fun _ => ⟨⟨"MXOR", 0x0004, 0xFFFF⟩, by decide, rfl, plain_matches 0x4 0 0x0004 (by decide)⟩

theorem setrobs (a : Addr) (h : Handle) (p : Word) : Statement (.setrobs a h p) := fun _ =>
  ⟨⟨"SETROBS", 0x8005, 0x80FF⟩, by decide, rfl, beq_iff_eq.2 ((external_matches 5 h).trans (by decide))⟩

theorem setwobsGpioIn (a : Addr) (p : Word) : Statement (.setwobsGpioIn a p) :=
  fun _ => ⟨⟨"SETWOBS__GPIO_IN", 0x0106, 0xFFFF⟩, by decide, rfl, plain_matches 0x6 1 0x0106 (by decide)⟩

theorem setwobsExternal (a : Addr) (h : Handle) (p : Word) : Statement (.setwobsExternal a h p) := fun _ =>
  ⟨⟨"SETWOBS__EXTERNAL", 0x8006, 0x80FF⟩, by decide, rfl, beq_iff_eq.2 ((external_matches 6 h).trans (by decide))⟩

theorem drd (a : Addr) : Statement (.drd a) := fun _ => ⟨⟨"DRD", 0x0007, 0xFFFF⟩, by decide, rfl, plain_matches 0x7 0 0x0007 (by decide)⟩

theorem dwr (a : Addr) (v : Word) : Statement (.dwr a v) := fun _ => ⟨⟨"DWR", 0x0008, 0xFFFF⟩, by decide, rfl, plain_matches 0x8 0 0x0008 (by decide)⟩

theorem rtctick : Statement .rtctick := fun _ => ⟨⟨"RTCTICK", 0x0009, 0xFFFF⟩, by decide, rfl, plain_matches 0x9 0 0x0009 (by decide)⟩

theorem dactick : Statement .dactick := fun _ => ⟨⟨"DACTICK", 0x000A, 0xFFFF⟩, by decide, rfl, plain_matches 0xA 0 0x000A (by decide)⟩

theorem uartrx (b : Byte) : Statement (.uartrx b) := fun _ => ⟨⟨"UARTRX", 0x000B, 0xFFFF⟩, by decide, rfl, plain_matches 0xB 0 0x000B (by decide)⟩

theorem assertSource (k : Byte) : Statement (.assertSource k) := fun _ =>
  ⟨⟨"ASSERT", 0x000C, 0x00FF⟩, by decide, rfl, beq_iff_eq.2 ((source_matches 0xC k).trans (by decide))⟩

theorem hret (k : Byte) : Statement (.hret k) := fun _ =>
  ⟨⟨"HRET", 0x000D, 0x00FF⟩, by decide, rfl, beq_iff_eq.2 ((source_matches 0xD k).trans (by decide))⟩

end Sys2Proof.Laws.Row
end

