-- ==== Sys2Proof/Tests/Slice0.lean ====
section
/-! SUPPORT. The model's own tests. Expected results come from the spec: the patterns of R90 and R91, and the vectors of
95_test_vectors.md, whose labels stand beside the tests. They run the meanings on the spec's test configuration. -/

namespace Sys2Proof.Machine.Tests

/-! ## Decoding: words written out from the spec's encodings -/

theorem test_decode_rd : decode ⟨0b0000000000000000, 0x5000, 0xFFFF⟩ = .ok (.rd 0x5000) := by decide

theorem test_decode_wr : decode ⟨0b0000000000000001, 0x5000, 7⟩ = .ok (.wr 0x5000 7) := by decide

theorem test_decode_mand : decode ⟨0b0000000000000010, 0x1008, 0xFFFFFFDF⟩ = .ok (.mand 0x1008 0xFFFFFFDF) := by decide

theorem test_decode_mor : decode ⟨0b0000000000000011, 0x1008, 0x20⟩ = .ok (.mor 0x1008 0x20) := by decide

theorem test_decode_mxor : decode ⟨0b0000000000000100, 0x1018, 1⟩ = .ok (.mxor 0x1018 1) := by decide

/-- B14. -/
theorem test_decode_setrobs : decode ⟨0b1000010100000101, 0x5000, 9⟩ = .ok (.setrobs 0x5000 5 9) := by decide

/-- B16. -/
theorem test_decode_setwobs_gpioIn : decode ⟨0b0000000100000110, 0x5000, 2⟩ = .ok (.setwobsGpioIn 0x5000 2) := by decide

/-- E20. -/
theorem test_decode_setwobs_external :
    decode ⟨0b1111111100000110, 0x5000, 0x5004⟩ = .ok (.setwobsExternal 0x5000 0x7F 0x5004) := by decide

theorem test_decode_drd : decode ⟨0b0000000000000111, 0x5000, 1⟩ = .ok (.drd 0x5000) := by decide

theorem test_decode_dwr : decode ⟨0b0000000000001000, 0x101C, 0x10⟩ = .ok (.dwr 0x101C 0x10) := by decide

theorem test_decode_rtctick : decode ⟨0b0000000000001001, 5, 6⟩ = .ok .rtctick := by decide

theorem test_decode_dactick : decode ⟨0b0000000000001010, 5, 6⟩ = .ok .dactick := by decide

/-- U6: `data[31:8]` is ignored. -/
theorem test_decode_uartrx : decode ⟨0b0000000000001011, 5, 0x1FF⟩ = .ok (.uartrx 0xFF) := by decide

theorem test_decode_assert : decode ⟨0b0001000000001100, 5, 6⟩ = .ok (.assertSource 16) := by decide

theorem test_decode_hret : decode ⟨0b0001011100001101, 5, 6⟩ = .ok (.hret 23) := by decide

/-- E1, E2: `OP` 0xE and 0xF are reserved, and that is checked first (R89). -/
theorem test_decode_reserved_op :
    decode ⟨0x000E, 0, 0⟩ = .error .reservedOp ∧ decode ⟨0xFFFF, 0, 0⟩ = .error .reservedOp := by decide

/-- E3, and the order of R89: `RSV` before `AUX`. -/
theorem test_decode_rsv :
    decode ⟨0x0010, 0, 0⟩ = .error .reservedBits ∧ decode ⟨0x0110, 0, 0⟩ = .error .reservedBits := by decide

/-- E4, E5, E6, E12, E17. -/
theorem test_decode_bad_aux :
    decode ⟨0x0100, 0, 0⟩ = .error .badAux ∧ decode ⟨0x0105, 0, 0⟩ = .error .badAux ∧
    decode ⟨0x0206, 0, 0⟩ = .error .badAux ∧ decode ⟨0x050C, 0, 0⟩ = .error .badAux ∧
    decode ⟨0x050D, 0, 0⟩ = .error .badAux := by decide

/-- E7. -/
theorem test_decode_bad_param : decode ⟨0x0106, 0, 4⟩ = .error .badParam := by decide

/-- L3.1 to L3.4: the encodings the spec's programs write out. -/
theorem test_encode_programs :
    encode (.mor 0x1004 4) = ⟨0x0003, 0x1004, 4⟩ ∧ encode (.hret 14) = ⟨0x0E0D, 0, 0⟩ ∧
    encode (.setwobsExternal 0x5004 1 0x5008) = ⟨0x8106, 0x5004, 0x5008⟩ ∧
    encode (.setrobs 0x5000 2 0x5004) = ⟨0x8205, 0x5000, 0x5004⟩ := by decide

/-- The host's numbering: `hdr` is bits 15..0, and every other bit is 0. -/
theorem test_decodeTableWord :
    decodeTableWord 16 0x8506 = some (.setwobsExternal 0 5 0) ∧ decodeTableWord 16 0x000E = none ∧
    decodeTableWord 80 0x00000007_00005000_0001 = some (.wr 0x5000 7) := by decide

/-! ## Smoke: an ill-formed term for each check -/

theorem test_illformed_port : Instr.wellFormed (.setwobsGpioIn 0 4) = false := by decide

theorem test_illformed_assert : Instr.wellFormed (.assertSource 5) = false := by decide

theorem test_illformed_hret : Instr.wellFormed (.hret 32) = false := by decide

/-! ## The spec's test configuration (95_test_vectors.md 0.1, 0.2) -/

/-- The value of an event. -/
def eventValue : Event → Word
  | .read v => v
  | .write _ v => v

/-- The external observers of the vectors. -/
def testExtObs (h : Handle) (p : Word) (_ : Dir) (ev : Event) (_ : Addr → Word) : List Command :=
  if h = 1 then [encode (.wr p (eventValue ev))]
  else if h = 2 then [encode (.mor p 1)]
  else if h = 3 then [encode (.wr p (eventValue ev ^^^ 1))]
  else []

def testConfig : Config := { extObs := testExtObs }

/-- A state that follows reset by writes of cells, at a port. -/
def stateWith (o : Origin) (l : List (Addr × Word)) : State :=
  l.foldl (fun s x => s.setCell x.1 x.2) { resetOn testConfig with origin := o }

/-- What a test looks at after a command: the response. -/
def reply (s : State) : Option Response := s.resp.map Prod.snd

def x0 : Addr := 0x5000
def x1 : Addr := 0x5004
def x2 : Addr := 0x5008
def x3 : Addr := 0x500C

/-! ## Bus operations -/

/-- B2. -/
theorem test_rd : reply (rdOn testConfig x0 (stateWith (.fw 0) [(x0, 7)])) = some ⟨true, 0, 7⟩ := by decide

/-- B22: the read observer copies the value read; the response is the value read. -/
theorem test_rd_observer :
    let t := rdOn testConfig x0 ((stateWith (.fw 0) [(x0, 0x42)]).setRobs x0 ⟨1, x1⟩)
    t.cell x1 = 0x42 ∧ reply t = some ⟨true, 0, 0x42⟩ := by decide

/-- B4. -/
theorem test_wr : (wrOn testConfig x0 0xDEADBEEF (stateWith (.fw 0) [])).cell x0 = 0xDEADBEEF := by decide

/-- L1.3: an unchanged write fires nothing. -/
theorem test_wr_unchanged :
    let t := wrOn testConfig x0 7 ((stateWith (.fw 0) [(x0, 7)]).setWobs x0 (.external ⟨2, x1⟩))
    t.cell x1 = 0 ∧ reply t = some ⟨true, 0, 0⟩ := by decide

/-- B5. -/
theorem test_mand : (mandOn testConfig x0 0x3C (stateWith (.fw 0) [(x0, 0x0F)])).cell x0 = 0x0C := by decide

/-- B6: the read observer fires, the cell is unchanged. -/
theorem test_mand_reads :
    let t := mandOn testConfig x0 0xFFFFFFFF ((stateWith (.fw 0) [(x0, 0x0F)]).setRobs x0 ⟨2, x1⟩)
    t.cell x0 = 0x0F ∧ t.cell x1 = 1 := by decide

/-- B10. -/
theorem test_mor : (morOn testConfig x0 0x80 (stateWith (.fw 0) [(x0, 1)])).cell x0 = 0x81 := by decide

/-- B11. -/
theorem test_mxor : (mxorOn testConfig x0 3 (stateWith (.fw 0) [(x0, 5)])).cell x0 = 6 := by decide

/-- B15: registration replaces. -/
theorem test_setrobs :
    (setrobsOn x0 2 x1 ((stateWith (.fw 0) []).setRobs x0 ⟨5, 9⟩)).robs = [(x0, ⟨2, x1⟩)] := by decide

/-- B17: `GPIO_IN` with parameter 2 at a plain cell asserts source 2 under `GPIO_INT.C`. -/
theorem test_setwobs_gpioIn :
    let t := setwobsGpioInOn x0 2 (stateWith (.fw 0) [(0x1024, 1)])
    let u := wrOn testConfig x0 1 t
    u.cell 0x2000 = 4 ∧ u.sig.gpio = 1 := by decide

/-- B18, B19: replacing the reset-time observer removes the producer. -/
theorem test_setwobs_external :
    let t := setwobsExternalOn 0x100C 4 0 (stateWith .dbg [(0x1004, 0xFFFFFFFF)])
    let u := dwrOn testConfig 0x100C 1 t
    u.cell 0x100C = 1 ∧ u.cell 0x2000 = 0 := by decide

/-- B20. -/
theorem test_drd : reply (drdOn testConfig x0 (stateWith .dbg [(x0, 3)])) = some ⟨true, 0, 3⟩ := by decide

/-- L1.7 row 1: `DWR` injects on port B. -/
theorem test_dwr :
    let t := dwrOn testConfig 0x101C 0x10 (stateWith .dbg [(0x1014, 0x10)])
    t.cell 0x2000 = 2 ∧ t.sig.gpio = 1 := by decide

/-! ## Cascades -/

/-- O1: depth first. -/
theorem test_cascade :
    let s := ((stateWith (.fw 0) []).setWobs x0 (.external ⟨1, x1⟩)).setWobs x1 (.external ⟨1, x2⟩)
    let t := wrOn testConfig x0 9 s
    t.cell x0 = 9 ∧ t.cell x1 = 9 ∧ t.cell x2 = 9 ∧ t.fault = none ∧ t.active = [] := by decide

/-- O2: the effects before the raise stay. -/
theorem test_reentrant :
    let s := ((stateWith (.fw 0) []).setWobs x0 (.external ⟨1, x1⟩)).setWobs x1 (.external ⟨1, x0⟩)
    let t := wrOn testConfig x0 9 s
    t.cell x0 = 9 ∧ t.cell x1 = 9 ∧ t.fault = some .reentrant := by decide

/-- O4: a read observer that accesses its own cell. -/
theorem test_reentrant_read :
    let t := rdOn testConfig x0 ((stateWith (.fw 0) []).setRobs x0 ⟨2, x0⟩)
    t.cell x0 = 0 ∧ t.fault = some .reentrant := by decide

/-- O5: Assert's modify fires the read observer of `PEND`. -/
theorem test_pend_observer :
    let t := dwrOn testConfig 0x100C 1 ((stateWith .dbg [(0x1004, 1)]).setRobs 0x2000 ⟨2, x3⟩)
    t.cell 0x2000 = 1 ∧ t.cell x3 = 1 ∧ t.sig.gpio = 1 ∧ t.fault = none := by decide

/-- O6: the fault comes before the modify stores. -/
theorem test_pend_reentrant :
    let t := dwrOn testConfig 0x100C 1 ((stateWith .dbg [(0x1004, 1)]).setRobs 0x2000 ⟨1, 0x2000⟩)
    t.cell 0x100C = 1 ∧ t.cell 0x2000 = 0 ∧ t.sig.gpio = 0 ∧ t.fault = some .reentrant := by decide

/-! ## Origins and checks -/

/-- E8 to E11: an origin outside the operation's row. -/
theorem test_origin :
    reply (rtctickOn testConfig (stateWith (.fw 0) [])) = some ⟨false, 2, 0⟩ ∧
    reply (rdOn testConfig x0 (stateWith .clk [])) = some ⟨false, 2, 0⟩ ∧
    reply (uartrxOn testConfig 1 (stateWith .dbg [])) = some ⟨false, 2, 0⟩ ∧
    reply (assertOn testConfig 0 (stateWith (.fw 0) [])) = some ⟨false, 2, 0⟩ := by decide

/-- E12: `AUX` is checked before the origin. -/
theorem test_assert_illegal : reply (assertOn testConfig 5 (stateWith .int [])) = some ⟨false, 1, 0⟩ := by decide

/-- E14: a hook command outside a call. -/
theorem test_hook_outside_call :
    reply (rdOn testConfig x0 (stateWith (.hook .gpio) [])) = some ⟨false, 2, 0⟩ := by decide

/-- E15, the same in WAIT and in SCAN (R88, R224), E16, E18. -/
theorem test_hret_refused :
    reply (hretOn 0 ((stateWith (.hook .gpio) []).setLoop .gpio (.call .portB))) = some ⟨false, 4, 0⟩ ∧
    reply (hretOn 0 (stateWith (.hook .gpio) [])) = some ⟨false, 4, 0⟩ ∧
    reply (hretOn 0 ((stateWith (.hook .gpio) []).setLoop .gpio .scan)) = some ⟨false, 4, 0⟩ ∧
    reply (hretOn 14 ((stateWith (.hook .gpio) []).setLoop .gpio (.call .portA))) = some ⟨false, 2, 0⟩ ∧
    reply (hretOn 0 (stateWith (.fw 0) [])) = some ⟨false, 2, 0⟩ := by decide

/-- E19. -/
theorem test_hret :
    let t := hretOn 14 ((stateWith (.hook .rtc) []).setLoop .rtc (.call .rtc))
    t.loop.rtc = .scan ∧ reply t = some ⟨true, 0, 0⟩ := by decide

/-! ## Producers -/

/-- A2 and A3: the signal is released though the bit is set already, and it saturates. -/
theorem test_assert :
    (assertOn testConfig 1 ((stateWith .int [(0x2000, 2)]).setSig .gpio 1)).sig.gpio = 2 ∧
    (assertOn testConfig 14 ((stateWith .int []).setSig .rtc 0xFFFFFFFF)).sig.rtc = 0xFFFFFFFF ∧
    (assertOn testConfig 14 (stateWith .int [])).cell 0x2000 = 0x4000 := by decide

/-- G3, G2, G4. -/
theorem test_gpio_edges :
    (dwrOn testConfig 0x100C 0xF (stateWith .dbg [(0x1004, 0xF)])).sig.gpio = 1 ∧
    (dwrOn testConfig 0x100C 3 (stateWith .dbg [(0x1004, 4)])).sig.gpio = 0 ∧
    (dwrOn testConfig 0x100C 0 (stateWith .dbg [(0x1004, 1), (0x100C, 1)])).sig.gpio = 1 := by decide

/-- G5: a falling edge under `RISING`. -/
theorem test_gpio_rising :
    (dwrOn { testConfig with edgePolicy := .rising } 0x100C 0
      (stateWith .dbg [(0x1004, 1), (0x100C, 1)])).sig.gpio = 0 := by decide

/-- R4, R5: the compare is made against the new count. -/
theorem test_rtctick :
    (rtctickOn testConfig (stateWith .clk [(0x3100, 0x81), (0x3104, 4), (0x3108, 5)])).sig.rtc = 1 ∧
    (rtctickOn testConfig (stateWith .clk [(0x3100, 0x81), (0x3104, 5), (0x3108, 5)])).sig.rtc = 0 := by decide

/-- R6, R2: the wrap, and a stopped counter. -/
theorem test_rtctick_wrap :
    let t := rtctickOn testConfig (stateWith .clk [(0x3100, 0x81), (0x3104, 0xFFFFFFFF)])
    t.cell 0x3104 = 0 ∧ t.sig.rtc = 1 ∧
    (rtctickOn testConfig (stateWith .clk [(0x3100, 0x80), (0x3104, 4), (0x3108, 5)])).cell 0x3104 = 4 := by decide

/-- D4, D2. -/
theorem test_dactick :
    let t := dactickOn testConfig (stateWith .clk [(0x3200, 0x81), (0x3204, 0x1ABC)])
    t.hist = [0xABC, 0, 0, 0] ∧ t.widx = 1 ∧ t.cell 0x2000 = 0x10000 ∧
    (dactickOn testConfig (stateWith .clk [(0x3200, 0x80), (0x3204, 0x123)])).widx = 0 := by decide

/-- L1.8, steps 4 and 5: the wrap at the buffer boundary. -/
theorem test_dactick_wrap :
    let s := { stateWith .clk [(0x3200, 1), (0x3204, 0xF005)] with hist := [1, 2, 3, 4], widx := 3 }
    (dactickOn testConfig s).widx = 0 ∧ (dactickOn testConfig s).hist = [1, 2, 3, 5] := by decide

/-- U4, U2, with `UART_STATUS_ON_RX` the identity. -/
theorem test_uartrx :
    let t := uartrxOn testConfig 0x41 (stateWith .uartb [(0x3300, 0x81)])
    t.cell 0x3304 = 0x41 ∧ t.cell 0x2000 = 0x800000 ∧
    (uartrxOn testConfig 0x41 (stateWith .uartb [(0x3300, 0x80)])).cell 0x2000 = 0 := by decide

/-- U5: a byte that is there already fires no write observer, and asserts. -/
theorem test_uartrx_same :
    let t := uartrxOn testConfig 0x41 ((stateWith .uartb [(0x3300, 0x81), (0x3304, 0x41)]).setWobs 0x3304 (.external ⟨2, x1⟩))
    t.cell x1 = 0 ∧ t.sig.uart = 1 := by decide

/-! ## Dispatch -/

/-- S2, S1. -/
theorem test_wake :
    let s := (stateWith (.fw 0) [(0x2000, 0x4005)]).setSig .gpio 1
    let t := wakeOn testConfig .gpio s
    wakeEnabled s .gpio = true ∧ t.sig.gpio = 0 ∧ t.snap.gpio = 5 ∧ t.loop.gpio = .scan ∧
    wakeEnabled (stateWith (.fw 0) []) .gpio = false := by decide

/-- S12: the snapshot read fires the read observer of `PEND`. -/
theorem test_wake_observer :
    let t := wakeOn testConfig .rtc (((stateWith (.fw 0) [(0x2000, 0x4000)]).setSig .rtc 1).setRobs 0x2000 ⟨2, x3⟩)
    t.snap.rtc = 0x4000 ∧ t.cell x3 = 1 := by decide

/-- S3, S7. -/
theorem test_scan :
    let s := ((stateWith (.fw 0) []).setLoop .gpio .scan).setSnap .gpio 5
    (scanOn testConfig .gpio s).loop.gpio = .call .portA ∧ (scanOn testConfig .gpio s).snap.gpio = 4 ∧
    (scanOn testConfig .gpio (s.setSnap .gpio 0)).loop.gpio = .wait := by decide

/-- S8: an absent hook is a no-op. -/
theorem test_scan_absent :
    let s := ((stateWith (.fw 0) [(0x2000, 2)]).setLoop .gpio .scan).setSnap .gpio 2
    let t := scanOn { testConfig with hookPresent := fun k => k != .portB } .gpio s
    t.loop.gpio = .scan ∧ t.snap.gpio = 0 ∧ t.cell 0x2000 = 2 := by decide

/-- U13: under `ANY` another bit of the snapshot can be taken. -/
theorem test_scan_any :
    let s := ((stateWith (.fw 0) []).setLoop .gpio .scan).setSnap .gpio 5
    (scanOn { testConfig with dispatchOrder := .any, freeSource := fun _ => 1 } .gpio s).loop.gpio = .call .portC := by
  decide

/-- The requesters' heads and the enabled steps (R230). -/
theorem test_enabled :
    let s := ((stateWith (.fw 0) []).setSig .rtc 1).setLoop .dac .scan
    let t := (s.present .dbg (encode (.rd 0))).present (.fw 1) (encode (.rd 0))
    enabledTurns (t.present .dbg (encode (.rd 1))) = [.request .dbg, .request (.fw 1), .wake .rtc, .scan .dac] ∧
    enabledTurns t.setFault = [] := by decide

/-- R230: a hook's head command is offered in a call of its group only. -/
theorem test_hook_enabled :
    let s := (stateWith (.fw 0) []).enqueue (.hook .gpio) (encode (.rd 0))
    enabledTurns s = [] ∧ enabledTurns (s.setLoop .dac (.call .dac)) = [] ∧
    enabledTurns (s.setLoop .gpio (.call .portB)) = [.request (.hook .gpio)] := by decide

/-- E14, E17, and an HRET with no matching call, presented by the hook (R213, R88). -/
theorem test_hook_presented :
    let s := stateWith (.fw 0) []
    reply (s.present (.hook .gpio) (encode (.rd x0))) = some ⟨false, 2, 0⟩ ∧
    reply (s.present (.hook .gpio) ⟨0x050D, 0, 0⟩) = some ⟨false, 1, 0⟩ ∧
    reply (s.present (.hook .gpio) (encode (.hret 0))) = some ⟨false, 4, 0⟩ ∧
    (s.present (.hook .gpio) (encode (.hret 0))).inbox = [] ∧
    ((s.setLoop .gpio (.call .portA)).present (.hook .gpio) (encode (.hret 0))).inbox.length = 1 := by decide

/-! ## Façades -/

/-- F1, F3, F4. -/
theorem test_facade_commands :
    facadeCommands testConfig (.pinCfg 0 3 .output) = .ok [.mor 0x1000 8] ∧
    facadeCommands testConfig (.pinSet 0 32) = .error 3 ∧ facadeCommands testConfig (.pinSet 4 0) = .error 3 ∧
    facadeCommands testConfig (.pinClear 0 5) = .ok [.mand 0x1008 0xFFFFFFDF] := by decide

/-- L1.4, L1.5, F9, F10, F11, F14. -/
theorem test_getters :
    pwmDuty 25 100 = 25 ∧ pwmDuty 25 0 = 0 ∧ timerFreq 0x1000 1 = 1000000 ∧ timerFreq 0x0300 7 = 761904 ∧
    timerFreq 0xFF01 1 = 62745 ∧ timerFreq 0x11000 1 = 1000000 ∧ pwmDuty 0xFFFFFFFF 1 = 429496729500 := by decide

/-! ## The first step after reset -/

/-- From reset, the next step runs the placed command: `RD 0` answers 0. -/
theorem test_first_step :
    step (State.reset.withFetchWord 16 0x0000) =
      exec (.rd 0) { State.reset with origin := .fw 0, draws := 1 } := by rfl

/-! ## Witnesses: for every statement with hypotheses, states and operands that meet them -/

/-- Reset, with a command of the port being granted. -/
def atPort (o : Origin) : State := { State.reset with origin := o }

/-- A named register of this block written, wherever its address is. -/
def put (s : State) (r : RegName) (v : Word) : State := s.setCell (Config.current.addr r) v

theorem maps_atPort (o : Origin) : (atPort o).MapsWf := ⟨Memory.wf_nil, List.Pairwise.nil, assocSorted_resetWobs _⟩

theorem maps_put {s : State} (h : s.MapsWf) (r : RegName) (v : Word) : (put s r v).MapsWf := mapsWf_kept.setCell s _ v h

theorem reg_put_same {s : State} (h : s.MapsWf) (r : RegName) (v : Word) : (put s r v).reg Config.current r = v :=
  State.cell_setCell_same h.cells _ v

theorem reg_put_other (s : State) {r r' : RegName} (v : Word) (h : r' ≠ r) :
    (put s r v).reg Config.current r' = s.reg Config.current r' :=
  State.cell_setCell_other s v (by simpa using h)

theorem unobserved_atPort (o : Origin) {r : RegName} (h : ∀ p, r ≠ .gpioIn p) :
    (atPort o).Unobserved (Config.current.addr r) := unobserved_reset h

theorem busOrigin_fw (i : Nat) : (atPort (.fw i)).BusOrigin := .inl ⟨i, rfl⟩

/-- Reset with the signal of RTC up. -/
def signalled : State := State.reset.setSig .rtc 1

/-- Reset with a command waiting at a port. -/
def waiting (o : Origin) (cmd : Command) : State := State.reset.present o cmd

theorem witness_DecodeOfEncode : Instr.wellFormed (.setwobsGpioIn 0 3) = true ∧ Instr.wellFormed (.hret 23) = true := by
  decide

theorem witness_DecodedHeaderIsTheEncoded : decode ⟨0x170D, 5, 6⟩ = .ok (.hret 23) := by decide

theorem witness_DecodeAcceptsTheRows :
    (⟨"ASSERT", 0x000C, 0x00FF⟩ : OpcodeRow) ∈ opcodeRows ∧
    (⟨"ASSERT", 0x000C, 0x00FF⟩ : OpcodeRow).matches 0x170C = true ∧
    (Command.mk 0x170C 0 0).aux.toNat ∈ [0, 1, 2, 3, 14, 16, 23] ∧
    (⟨"SETWOBS__GPIO_IN", 0x0106, 0xFFFF⟩ : OpcodeRow) ∈ opcodeRows ∧ (3 : Word).toNat ≤ 3 := by decide

theorem witness_OpcodeRowsDoNotOverlap :
    (⟨"HRET", 0x000D, 0x00FF⟩ : OpcodeRow) ∈ opcodeRows ∧
    (⟨"HRET", 0x000D, 0x00FF⟩ : OpcodeRow).matches 0xFF0D = true := by decide

theorem witness_UnusedFieldsAreIgnored :
    (Command.mk 0x0009 0 0).op.toNat ∈ [0x9, 0xA, 0xB, 0xC, 0xD] ∧
    (Command.mk 0x000D 0 0).op.toNat ∈ [0x9, 0xA, 0xB, 0xC, 0xD] ∧
    (Command.mk 0x0000 0 0).op.toNat ∈ [0x0, 0x7, 0x9, 0xA, 0xC, 0xD] ∧
    (Command.mk 0x000B 0 0).op.toNat = 0xB ∧ (0x141 : Word).extractLsb' 0 8 = (0x41 : Word).extractLsb' 0 8 ∧
    (Command.mk 0x0010 0 0).rsv ≠ 0 := by decide

theorem witness_IllegalEncodingsAreAnswered :
    (Command.mk 0x000E 0 0).op.toNat ∈ [0xE, 0xF] ∧ (Command.mk 0x00F0 0 0).rsv ≠ 0 ∧
    ¬ AuxLegal ⟨0x7F05, 0, 0⟩ ∧ ¬ AuxLegal ⟨0x0106, 0, 4⟩ ∧
    (Command.mk 0x0106 0 3).op.toNat ∉ [0xE, 0xF] ∧ (Command.mk 0x0106 0 3).rsv = 0 ∧ AuxLegal ⟨0x0106, 0, 3⟩ ∧
    AuxLegal ⟨0x8005, 0, 0⟩ := by
  refine ⟨by decide, by decide, ?_, ?_, by decide, by decide, ?_, ?_⟩ <;> simp [AuxLegal, Command.op, Command.aux]

theorem witness_ChecksComeInOrder :
    0xE ≤ (Command.mk 0xFFFE 0 0).op.toNat ∧
    ((Command.mk 0xFFFD 0 0).op.toNat < 0xE ∧ (Command.mk 0xFFFD 0 0).rsv ≠ 0) ∧
    ((Command.mk 0xFF0D 0 0).op.toNat < 0xE ∧ (Command.mk 0xFF0D 0 0).rsv = 0 ∧ ¬ AuxLegal ⟨0xFF0D, 0, 0⟩) ∧
    decode ⟨0xFF0D, 0, 0⟩ = .error .badAux ∧
    (decode ⟨0x0009, 0, 0⟩ = .ok .rtctick ∧ ¬ OriginAllowed (atPort (.fw 0)) .rtctick) ∧
    (decode ⟨0x000D, 0, 0⟩ = .ok (.hret 0) ∧ Source.ofAux 0 = some .portA ∧
      (atPort (.hook .gpio)).origin = .hook Source.portA.group ∧
      (atPort (.hook .gpio)).loopOf Source.portA.group ≠ .call .portA ∧
      ((atPort (.hook .gpio)).setLoop .gpio (.call .portB)).loopOf Source.portA.group ≠ .call .portA) := by
  refine ⟨by decide, by decide, ⟨by decide, by decide, ?_⟩, by decide, ⟨by decide, ?_⟩, by decide, by decide, rfl,
    by decide, by decide⟩
  · simp [AuxLegal, Command.op, Command.aux]
  · simp [OriginAllowed, atPort]

theorem witness_StepRunsTheDecodedInstruction :
    (waiting .dbg ⟨0, 4, 0⟩).fault = none ∧
    chooseTurn Config.current (waiting .dbg ⟨0, 4, 0⟩) = some (.request .dbg) ∧
    takeHead .dbg (waiting .dbg ⟨0, 4, 0⟩).inbox = some (⟨0, 4, 0⟩, []) ∧ decode ⟨0, 4, 0⟩ = .ok (.rd 4) :=
  ⟨rfl, rfl, rfl, by decide⟩

theorem witness_StepAnswersAnIllegalCommand :
    (waiting .dbg ⟨0xE, 4, 0⟩).fault = none ∧
    chooseTurn Config.current (waiting .dbg ⟨0xE, 4, 0⟩) = some (.request .dbg) ∧
    takeHead .dbg (waiting .dbg ⟨0xE, 4, 0⟩).inbox = some (⟨0xE, 4, 0⟩, []) ∧
    decode ⟨0xE, 4, 0⟩ = .error .reservedOp := ⟨rfl, rfl, rfl, by decide⟩

theorem witness_StepRunsTheChosenLoop :
    signalled.fault = none ∧ chooseTurn Config.current signalled = some (.wake .rtc) ∧
    (State.reset.setLoop .dac .scan).fault = none ∧
    chooseTurn Config.current (State.reset.setLoop .dac .scan) = some (.scan .dac) := ⟨rfl, rfl, rfl, rfl⟩

theorem witness_FaultedMachineTakesNoStep : State.reset.setFault.fault ≠ none := nofun

theorem witness_StepTakesOneEnabledTurn :
    State.reset.fault = none ∧ enabledTurns State.reset = [] ∧ signalled.fault = none ∧
    Turn.wake .rtc ∈ enabledTurns signalled := ⟨rfl, rfl, rfl, .head _⟩

theorem witness_EveryEnabledTurnCanBeTaken : Turn.wake .rtc ∈ enabledTurns signalled := .head _

theorem witness_QueuesAreFirstInFirstOut :
    (∀ r ∈ [Request.mk .dbg ⟨0, 4, 0⟩, ⟨.fw 1, ⟨0, 8, 0⟩⟩], r.origin ≠ .fw 0) ∧ State.reset.setFault.fault ≠ none ∧
    (State.reset.setLoop .gpio (.call .portA)).loopOf .gpio = .call .portA ∧ (∀ g, ExternalPort.dbg ≠ .hook g) ∧
    facadeCommands Config.current .timerFreqGet =
      .ok [.rd (Config.current.addr .timerCtrl), .rd (Config.current.addr .timerTop)] :=
  ⟨by decide, nofun, rfl, nofun, rfl⟩

theorem witness_PlacedCommandRunsNext :
    State.reset.fault = none ∧ decodeTableWord 16 0x170D = some (.hret 23) ∧ Source.ofAux 23 = some .uart ∧
    Group.dac ≠ Source.uart.group := ⟨rfl, by decide, by decide, by decide⟩

theorem witness_HookClockAndBridgeAreBound :
    Instr.wellFormed (.rd 0) = true ∧ (atPort (.hook .uart)).origin = .hook .uart ∧ (atPort (.hook .uart)).fault = none ∧
    (∀ k, (atPort (.hook .uart)).loopOf .uart ≠ .call k) ∧ (∀ k, Instr.rd 0 ≠ .hret k) ∧ decode ⟨0, 0, 0⟩ = .ok (.rd 0) ∧
    Instr.wellFormed (.hret 23) = true ∧ Source.ofAux 23 = some .uart ∧ Source.uart.group = .uart ∧
    decode ⟨0x170D, 0, 0⟩ = .ok (.hret 23) ∧ Source.uart.group ≠ .gpio ∧ decode ⟨0x050D, 0, 0⟩ = .error .badAux ∧
    (atPort .clk).origin = .clk ∧ Instr.rd 0 ≠ .rtctick ∧
    Instr.rd 0 ≠ .dactick ∧ (atPort .uartb).origin = .uartb ∧ ∀ b, Instr.rd 0 ≠ .uartrx b :=
  ⟨rfl, rfl, rfl, nofun, nofun, by decide, by decide, by decide, rfl, by decide, by decide, by decide, rfl, nofun, nofun,
    rfl, nofun⟩

theorem witness_OriginOutsideTheRowFails :
    Instr.wellFormed .dactick = true ∧ ¬ OriginAllowed (atPort .uartb) .dactick :=
  ⟨rfl, by simp [OriginAllowed, atPort]⟩

theorem witness_FailedCommandChangesNothing :
    exec (.hret 5) (atPort .dbg) = .next ((atPort .dbg).respond ⟨false, 0x01, 0⟩) ∧
    ((atPort .dbg).respond ⟨false, 0x01, 0⟩).resp = some (.dbg, ⟨false, 0x01, 0⟩) := ⟨rfl, rfl⟩

theorem witness_CommandEndsAnsweredOrFaulted :
    (atPort .dbg).fault = none ∧ (atPort .dbg).active = [] := ⟨rfl, rfl⟩

/-- The clause of a read observer that faults: O4, on the test configuration. -/
theorem witness_ReadsAnswerTheSampledValue :
    (atPort (.fw 0)).BusOrigin ∧ Instr.drd 0 ∈ [Instr.rd 0, Instr.drd 0] ∧
    fireRead (cascade Config.current) 0 ((atPort (.fw 0)).cell 0) (atPort (.fw 0)).clearActive
      = .ok () (atPort (.fw 0)).clearActive ∧ (atPort (.fw 0)).robsAt 0 = none ∧
    ((stateWith (.fw 0) []).setRobs x0 ⟨2, x0⟩).BusOrigin ∧
    ∃ t, fireRead (cascade testConfig) x0 (((stateWith (.fw 0) []).setRobs x0 ⟨2, x0⟩).cell x0)
      ((stateWith (.fw 0) []).setRobs x0 ⟨2, x0⟩).clearActive = .halt t :=
  ⟨busOrigin_fw 0, by simp, rfl, rfl, .inl ⟨0, rfl⟩, _, rfl⟩

/-- An input producer registered on the enable register of its own port: its nested read faults. -/
def selfWatched : State := (atPort (.fw 0)).setWobs (Config.current.addr (.gpioInt .a)) (.gpioIn .a)

theorem selfWatched_faults :
    ∃ t, fireWrite (cascade Config.current) (Config.current.addr (.gpioInt .a)) 0 1
      (selfWatched.clearActive.setCell (Config.current.addr (.gpioInt .a)) 1) = .halt t := by
  have hw : (selfWatched.clearActive.setCell (Config.current.addr (.gpioInt .a)) 1).wobsAt
      (Config.current.addr (.gpioInt .a)) = some (.gpioIn .a) := State.wobsAt_setWobs_same _ _ _
  refine ⟨((selfWatched.clearActive.setCell (Config.current.addr (.gpioInt .a)) 1).pushActive
    (Config.current.addr (.gpioInt .a)) .write).setFault, ?_⟩
  have hc : cascade Config.current (Config.current.addr (.gpioInt .a)) (.gpioIn .a) (.write 0 1)
      (selfWatched.clearActive.setCell (Config.current.addr (.gpioInt .a)) 1) =
      (gpioInProducer Config.current (runObserver Config.current 4294967295) .a 0 1
        ((selfWatched.clearActive.setCell (Config.current.addr (.gpioInt .a)) 1).pushActive
          (Config.current.addr (.gpioInt .a)) .write)).bind fun _ t => .ok () t.popActive := rfl
  simp only [fireWrite, hw, hc, gpioInProducer, nestedRead]
  rw [if_pos (by simp [State.isActive])]
  rfl

/-- A command whose cascade faults, and one that is answered. -/
theorem witness_EveryCommandAnswersANextState :
    (∃ t, exec (.wr (Config.current.addr (.gpioInt .a)) 1) selfWatched = .next t ∧ t.resp = none) ∧
    ∃ t, exec (.rd 0) (atPort .dbg) = .next t ∧ t.resp ≠ none := by
  obtain ⟨t, h⟩ := selfWatched_faults
  have e : exec (.wr (Config.current.addr (.gpioInt .a)) 1) selfWatched =
      .next (closeCommand (noData (fireWrite (cascade Config.current) (Config.current.addr (.gpioInt .a)) 0 1
        (selfWatched.clearActive.setCell (Config.current.addr (.gpioInt .a)) 1)))) := rfl
  exact ⟨⟨_, by rw [e, h], rfl⟩, _, rfl, nofun⟩

theorem witness_WritesActOnlyOnAChange :
    (atPort (.fw 0)).BusOrigin ∧ Instr.dwr 4 1 ∈ [Instr.wr 4 1, .dwr 4 1] ∧ (0 : Word) = (atPort (.fw 0)).cell 4 ∧
    (1 : Word) ≠ (atPort (.fw 0)).cell (Config.current.addr .pend) ∧
    fireWrite (cascade Config.current) (Config.current.addr .pend) 0 1
        ((atPort (.fw 0)).clearActive.setCell (Config.current.addr .pend) 1)
      = .ok () ((atPort (.fw 0)).clearActive.setCell (Config.current.addr .pend) 1) ∧
    (atPort (.fw 0)).wobsAt (Config.current.addr .pend) = none ∧
    selfWatched.BusOrigin ∧ (1 : Word) ≠ selfWatched.cell (Config.current.addr (.gpioInt .a)) ∧
    ∃ t, fireWrite (cascade Config.current) (Config.current.addr (.gpioInt .a))
      (selfWatched.cell (Config.current.addr (.gpioInt .a))) 1
      (selfWatched.clearActive.setCell (Config.current.addr (.gpioInt .a)) 1) = .halt t :=
  ⟨busOrigin_fw 0, by simp, rfl, nofun,
    fireWrite_of_none (unobserved_atPort (.fw 0) (r := .pend) nofun).2,
    (unobserved_atPort (.fw 0) (r := .pend) nofun).2, busOrigin_fw 0, nofun, selfWatched_faults⟩

/-- MOR 1 on `PEND`, on a self-watched enable register, and on a cell whose read observer faults. -/
theorem witness_ModifiesReadCombineAndWrite :
    (atPort (.fw 0)).BusOrigin ∧
    fireRead (cascade Config.current) 0 ((atPort (.fw 0)).cell 0) (atPort (.fw 0)).clearActive
      = .ok () (atPort (.fw 0)).clearActive ∧
    (atPort (.fw 0)).cell 0 ||| 0 = (atPort (.fw 0)).cell 0 ∧ (atPort (.fw 0)).cell 0 ||| 1 ≠ (atPort (.fw 0)).cell 0 ∧
    fireWrite (cascade Config.current) (Config.current.addr .pend) 0 1
        ((atPort (.fw 0)).clearActive.setCell (Config.current.addr .pend) 1)
      = .ok () ((atPort (.fw 0)).clearActive.setCell (Config.current.addr .pend) 1) ∧
    (∃ t, fireWrite (cascade Config.current) (Config.current.addr (.gpioInt .a)) 0 1
      (selfWatched.clearActive.setCell (Config.current.addr (.gpioInt .a)) 1) = .halt t) ∧
    (atPort (.fw 0)).MapsWf ∧ (atPort (.fw 0)).Unobserved (Config.current.addr .pend) ∧
    ∃ t, fireRead (cascade testConfig) x0 (((stateWith (.fw 0) []).setRobs x0 ⟨2, x0⟩).cell x0)
      ((stateWith (.fw 0) []).setRobs x0 ⟨2, x0⟩).clearActive = .halt t :=
  ⟨busOrigin_fw 0, rfl, rfl, by decide, fireWrite_of_none (unobserved_atPort (.fw 0) (r := .pend) nofun).2,
    selfWatched_faults, maps_atPort _, unobserved_atPort _ nofun, _, rfl⟩

theorem witness_RegistrationReplacesOneSlot :
    (atPort (.fw 0)).BusOrigin ∧ (3 : Word).toNat = Port.d.index ∧ 3 < (4 : Word).toNat ∧ (1 : Addr) ≠ 0 :=
  ⟨busOrigin_fw 0, rfl, by decide, by decide⟩

theorem witness_ObserverFiresWithTheEvent :
    (atPort (.fw 0)).robsAt 0 = none ∧ ((atPort (.fw 0)).setRobs 0 ⟨2, 0⟩).robsAt 0 = some ⟨2, 0⟩ ∧
    (atPort (.fw 0)).wobsAt (Config.current.addr .pend) = none ∧
    (atPort (.fw 0)).wobsAt (Config.current.addr (.gpioIn .d)) = some (.gpioIn .d) :=
  ⟨rfl, rfl, (unobserved_atPort (.fw 0) (r := .pend) nofun).2, assocGet_put_same _ _ _⟩

theorem witness_UnobservedAccessFrame :
    (atPort (.fw 0)).MapsWf ∧ (atPort (.fw 0)).Unobserved (Config.current.addr .pend) ∧
    (∃ t, exec (.rd (Config.current.addr .pend)) (atPort (.fw 0)) = .next t) ∧
    (∃ t, exec (.setwobsGpioIn (Config.current.addr .pend) 4) (atPort (.fw 0)) = .next t) ∧
    ∃ t, exec (.wr (Config.current.addr .pend) 4) (atPort (.fw 0)) = .next t :=
  ⟨maps_atPort _, unobserved_atPort _ nofun, ⟨_, rfl⟩, ⟨_, rfl⟩, _, rfl⟩

theorem witness_CommandsLeaveDispatchStateAlone :
    (∃ t, exec .dactick (atPort .clk) = .next t) ∧ ∀ k, Instr.dactick ≠ .hret k := ⟨⟨_, rfl⟩, nofun⟩

theorem witness_ObserversStayRegistered :
    (∃ t, step (signalled.setRobs 0 ⟨2, 0⟩) = .next t) ∧ (signalled.setRobs 0 ⟨2, 0⟩).robsAt 0 ≠ none ∧
    signalled.wobsAt (Config.current.addr (.gpioIn .d)) ≠ none ∧ HostInput.present .clk ⟨9, 0, 0⟩ ≠ .reset :=
  ⟨⟨_, rfl⟩, nofun, by
    rw [show signalled.wobsAt (Config.current.addr (.gpioIn .d)) = some (.gpioIn .d) from assocGet_put_same _ _ _]
    nofun, nofun⟩

theorem witness_NestedAccessToAnActiveAddressFaults :
    (Command.mk 0x0008 0 0).op.toNat ≤ 8 ∧ (State.reset.pushActive 0 .read).isActive 0 = true ∧
    (State.reset.pushActive (testConfig.addr .pend) .write).isActive (testConfig.addr .pend) = true := by decide

/-- O1: the observer of x0 runs its one command; an empty list (O8); the self-write that faults (O3); a command that does
not decode, one above `OP` 0x8, and one of each form of a bus operation. -/
theorem witness_ExternalObserverRunsItsCommands :
    let s := stateWith (.fw 0) []
    let p := s.pushActive x0 .write
    (s.active.map Prod.fst).Nodup ∧ s.isActive x0 = false ∧ p.isActive x1 = false ∧
    testConfig.extObs 1 x1 .write (.write 0 9) s.cell = [encode (.wr x1 9)] ∧
    (∃ t, nestedAll (cascade testConfig) [encode (.wr x1 9)] p = .ok () t) ∧
    (∃ t, nestedAll (cascade testConfig) [encode (.wr x0 9)] p = .halt t) ∧
    nested (cascade testConfig) (encode (.wr x1 9)) p = .ok () (p.setCell x1 9) ∧
    (∃ t, nested (cascade testConfig) (encode (.wr x0 9)) p = .halt t) ∧
    8 < (Command.mk 0x0009 x0 0).op.toNat ∧
    (p.isActive (Command.mk 0x0100 x1 0).addr = false ∧ decode ⟨0x0100, x1, 0⟩ = .error .badAux) ∧
    decode ⟨0x0004, x1, 9⟩ = .ok (.mxor x1 9) ∧ (3 : Word).toNat = Port.d.index ∧
    decode ⟨0x0106, x1, 3⟩ = .ok (.setwobsGpioIn x1 3) := by
  exact ⟨by decide, by decide, by decide, by decide, ⟨_, rfl⟩, ⟨_, rfl⟩, rfl, ⟨_, rfl⟩, by decide, ⟨by decide, by decide⟩,
    by decide, by decide, by decide⟩

theorem witness_CascadeDepthNeverBinds :
    cascadeDepth ≤ cascadeDepth + 1 ∧ ((State.reset.pushActive 0 .read).active.map Prod.fst).Nodup ∧
    (State.reset.pushActive 0 .read).isActive 1 = false := ⟨by simp, by simp [State.reset, resetOn], by simp [State.isActive, State.reset, resetOn]⟩

theorem witness_AssertSetsTheBitAndReleasesTheSignal :
    Source.ofAux 4 = none ∧ Source.ofAux 23 = some .uart ∧ (atPort .int).origin = .int ∧ (atPort .int).MapsWf ∧
    (atPort .int).Unobserved (Config.current.addr .pend) ∧
    ∃ t, busModify (cascade Config.current) (Config.current.addr .pend) (fun x => x ||| bit 23)
      (atPort .int).clearActive = .ok () t :=
  ⟨by decide, by decide, rfl, maps_atPort _, unobserved_atPort _ nofun, _,
    busModify_of_none (maps_atPort .int).cells rfl (unobserved_atPort .int (r := .pend) nofun).2⟩

/-- Port D, the pin 31, disabled and enabled: 0 to 1 is an edge under either policy. -/
theorem witness_InjectionAssertsOnAnEnabledEdge :
    (atPort .dbg).BusOrigin ∧ (atPort .dbg).MapsWf ∧
    (atPort .dbg).wobsAt (Config.current.addr (.gpioIn .d)) = some (.gpioIn .d) ∧
    (atPort .dbg).robsAt (Config.current.addr (.gpioInt .d)) = none ∧
    (atPort .dbg).Unobserved (Config.current.addr .pend) ∧
    (0x80000000 : Word) ≠ (atPort .dbg).reg Config.current (.gpioIn .d) ∧
    (∀ policy, gpioEdges policy ((atPort .dbg).reg Config.current (.gpioIn .d)) 0x80000000 &&&
      (atPort .dbg).reg Config.current (.gpioInt .d) = 0) ∧
    (put (atPort .dbg) (.gpioInt .d) 0x80000000).MapsWf ∧
    (put (atPort .dbg) (.gpioInt .d) 0x80000000).reg Config.current (.gpioIn .d) = 0 ∧
    ∀ policy, gpioEdges policy 0 0x80000000 &&&
      (put (atPort .dbg) (.gpioInt .d) 0x80000000).reg Config.current (.gpioInt .d) ≠ 0 := by
  refine ⟨.inr (.inl rfl), maps_atPort _, assocGet_put_same _ _ _, rfl, unobserved_atPort _ nofun, by decide,
    fun policy => ?_, maps_put (maps_atPort _) _ _, reg_put_other _ _ nofun, fun policy => ?_⟩
  · cases policy <;> decide
  · rw [reg_put_same (maps_atPort _)]
    cases policy <;> decide

theorem witness_RtcTickCountsAndCompares :
    let s := put (atPort .clk) .rtcCtrl 0x81
    (atPort .clk).origin = .clk ∧ (atPort .clk).MapsWf ∧ (atPort .clk).robsAt (Config.current.addr .rtcCtrl) = none ∧
    (atPort .clk).Unobserved (Config.current.addr .rtcCnt) ∧ (atPort .clk).robsAt (Config.current.addr .rtcCmp) = none ∧
    (atPort .clk).Unobserved (Config.current.addr .pend) ∧
    ((atPort .clk).reg Config.current .rtcCtrl).getLsbD 0 = false ∧
    (s.reg Config.current .rtcCtrl).getLsbD 0 = true ∧ (s.reg Config.current .rtcCtrl).getLsbD 7 = true ∧
    s.reg Config.current .rtcCnt + 1 ≠ s.reg Config.current .rtcCmp ∧
    (put s .rtcCmp 1).MapsWf ∧ ((put s .rtcCmp 1).reg Config.current .rtcCtrl).getLsbD 0 = true ∧
    ((put s .rtcCmp 1).reg Config.current .rtcCtrl).getLsbD 7 = true ∧
    (put s .rtcCmp 1).reg Config.current .rtcCnt + 1 = (put s .rtcCmp 1).reg Config.current .rtcCmp := by
  have h : (put (atPort .clk) .rtcCtrl 0x81).MapsWf := maps_put (maps_atPort _) _ _
  refine ⟨rfl, maps_atPort _, rfl, unobserved_atPort _ nofun, rfl, unobserved_atPort _ nofun, rfl, ?_, ?_, ?_,
    maps_put h _ _, ?_, ?_, ?_⟩
  · rw [reg_put_same (maps_atPort _)]
    decide
  · rw [reg_put_same (maps_atPort _)]
    decide
  · rw [reg_put_other _ _ (by decide), reg_put_other _ _ (by decide)]
    decide
  · rw [reg_put_other _ _ (by decide), reg_put_same (maps_atPort _)]
    decide
  · rw [reg_put_other _ _ (by decide), reg_put_same (maps_atPort _)]
    decide
  · rw [reg_put_same h, reg_put_other _ _ (by decide), reg_put_other _ _ (by decide)]
    decide

theorem witness_DacTickAppendsAndAsserts :
    (atPort .clk).origin = .clk ∧ (atPort .clk).MapsWf ∧ (atPort .clk).robsAt (Config.current.addr .dacCtrl) = none ∧
    (atPort .clk).robsAt (Config.current.addr .dacData) = none ∧ (atPort .clk).Unobserved (Config.current.addr .pend) ∧
    ((atPort .clk).reg Config.current .dacCtrl).getLsbD 0 = false ∧
    ((put (atPort .clk) .dacCtrl 0x01).reg Config.current .dacCtrl).getLsbD 0 = true ∧
    ((put (atPort .clk) .dacCtrl 0x01).reg Config.current .dacCtrl).getLsbD 7 = false ∧
    ((put (atPort .clk) .dacCtrl 0x81).reg Config.current .dacCtrl).getLsbD 0 = true ∧
    ((put (atPort .clk) .dacCtrl 0x81).reg Config.current .dacCtrl).getLsbD 7 = true := by
  refine ⟨rfl, maps_atPort _, rfl, rfl, unobserved_atPort _ nofun, rfl, ?_, ?_, ?_, ?_⟩ <;>
    rw [reg_put_same (maps_atPort _)] <;> decide

theorem witness_UartRxDeliversTheByte :
    (atPort .uartb).origin = .uartb ∧ (atPort .uartb).MapsWf ∧
    (atPort .uartb).Unobserved (Config.current.addr .uartRxData) ∧
    (atPort .uartb).Unobserved (Config.current.addr .uartStatus) ∧
    (atPort .uartb).robsAt (Config.current.addr .uartCtrl) = none ∧
    (atPort .uartb).Unobserved (Config.current.addr .pend) ∧
    ((put (atPort .uartb) .uartCtrl 0x80).reg Config.current .uartCtrl).getLsbD 0 = false ∧
    ((put (atPort .uartb) .uartCtrl 0x01).reg Config.current .uartCtrl).getLsbD 7 = false ∧
    ((put (atPort .uartb) .uartCtrl 0x81).reg Config.current .uartCtrl).getLsbD 0 = true ∧
    ((put (atPort .uartb) .uartCtrl 0x81).reg Config.current .uartCtrl).getLsbD 7 = true := by
  refine ⟨rfl, maps_atPort _, unobserved_atPort _ nofun, unobserved_atPort _ nofun, rfl, unobserved_atPort _ nofun,
    ?_, ?_, ?_, ?_⟩ <;> rw [reg_put_same (maps_atPort _)] <;> decide

theorem witness_AcknowledgeClearsOneBit :
    (put (atPort (.fw 0)) .pend 0x00800001).BusOrigin ∧ (put (atPort (.fw 0)) .pend 0x00800001).MapsWf ∧
    (put (atPort (.fw 0)) .pend 0x00800001).Unobserved (Config.current.addr .pend) :=
  ⟨busOrigin_fw 0, maps_put (maps_atPort _) _ _, unobserved_atPort (.fw 0) (r := .pend) nofun⟩

theorem witness_BusWriteOfPendWakesNothing :
    (atPort .dbg).MapsWf ∧ (atPort .dbg).Unobserved (Config.current.addr .pend) ∧
    ∃ t, exec (.dwr (Config.current.addr .pend) 1) (atPort .dbg) = .next t :=
  ⟨maps_atPort _, unobserved_atPort _ nofun, _, rfl⟩

theorem witness_OnlyTheWakeTakesASignal :
    ∃ t, step signalled = .next t ∧ t.sigOf .rtc < signalled.sigOf .rtc := ⟨_, rfl, by decide⟩

theorem witness_WakeTakesOneSnapshot :
    signalled.robsAt (Config.current.addr .pend) = none ∧
    fireRead (cascade Config.current) (Config.current.addr .pend) (signalled.reg Config.current .pend)
      (signalled.clearActive.setSig .rtc (signalled.sigOf .rtc - 1))
      = .ok () (signalled.clearActive.setSig .rtc (signalled.sigOf .rtc - 1)) ∧
    ∃ t, fireRead (cascade testConfig) (testConfig.addr .pend) 0
      (((stateWith (.fw 0) []).setRobs (testConfig.addr .pend) ⟨2, testConfig.addr .pend⟩).clearActive.setSig .rtc
        0xFFFFFFFF) = .halt t := ⟨rfl, rfl, _, rfl⟩

/-- The snapshot of all four ports, under each order and with a hook present and absent. -/
theorem witness_ScanDispatchesFromTheSnapshot :
    (State.reset.setSnap .gpio 0xF).snapOf .gpio &&& ~~~ Group.mask .gpio = 0 ∧
    (State.reset.setSnap .gpio 0xF).snapOf .gpio ≠ 0 ∧ State.reset.snapOf .gpio &&& ~~~ Group.mask .gpio = 0 ∧
    State.reset.snapOf .gpio = 0 ∧ testConfig.dispatchOrder = .ascending ∧ testConfig.hookPresent .portA = true ∧
    ({ testConfig with hookPresent := fun _ => false } : Config).hookPresent .portA = false := by decide

theorem witness_AnyOrderTakesAnySetBit :
    ({ testConfig with dispatchOrder := .any } : Config).dispatchOrder = .any ∧
    ((State.reset.setSnap .gpio 0xF).snapOf Source.portD.group).getLsbD Source.portD.index = true := by decide

theorem witness_HookReturnEndsTheCall :
    Source.ofAux 24 = none ∧ Source.ofAux 23 = some .uart ∧ (atPort .dbg).origin ≠ .hook .uart ∧
    ((atPort (.hook .uart)).setLoop .uart (.call .uart)).origin = .hook .uart ∧
    ((atPort (.hook .uart)).setLoop .uart (.call .uart)).loopOf .uart = .call .uart ∧
    Source.ofAux 3 = some .portD ∧ (atPort (.hook .gpio)).origin = .hook .gpio ∧
    (atPort (.hook .gpio)).loopOf .gpio ≠ .call .portD ∧
    ((atPort (.hook .gpio)).setLoop .gpio (.call .portC)).loopOf .gpio ≠ .call .portD := by
  decide

theorem witness_ReturnedSourceIsPendingOrIdle :
    let s := (atPort (.hook .uart)).setLoop .uart (.call .uart)
    Source.ofAux 23 = some .uart ∧ s.origin = .hook .uart ∧ sourceState Config.current s .uart = .dispatching ∧
    (∃ t, exec (.hret 23) s = .next t) ∧ pendBit Config.current s .uart = false ∧
    pendBit Config.current (put s .pend 0x00800000) .uart = true ∧
    sourceState Config.current (put s .pend 0x00800000) .uart = .dispatching := by
  refine ⟨by decide, rfl, rfl, ⟨_, rfl⟩, rfl, ?_, rfl⟩
  have h : ((atPort (.hook .uart)).setLoop .uart (.call .uart)).MapsWf :=
    ⟨Memory.wf_nil, List.Pairwise.nil, assocSorted_resetWobs _⟩
  rw [pendBit, reg_put_same h]
  decide

theorem witness_LoopChangesOnlyByItsOwnSteps :
    ∃ t, step signalled = .next t ∧ t.loopOf .rtc ≠ signalled.loopOf .rtc := ⟨_, rfl, nofun⟩

/-- A run of the machine: the signal is up, the loop wakes, scans an empty snapshot, and every agent waits. -/
def shortRun : Nat → State
  | 0 => signalled
  | 1 => wakeOn Config.current .rtc signalled.drawn
  | _ => (wakeOn Config.current .rtc signalled.drawn).drawn.setLoop .rtc .wait

theorem shortRun_scan : step (shortRun 1) = .next (shortRun 2) := by
  have hn : nextSource Config.current .rtc (wakeOn Config.current .rtc signalled.drawn).drawn = none :=
    nextSource_eq_none.2 rfl
  rw [step_of_choose (t := .scan .rtc) rfl rfl]
  simp only [runTurn, shortRun, scanOn, hn]

theorem shortRun_step (n : Nat) : step (shortRun n) = .next (shortRun (n + 1)) := by
  match n with
  | 0 => rfl
  | 1 => exact shortRun_scan
  | _ + 2 => rfl

theorem shortRun_waits (n : Nat) : enabledTurns (shortRun (n + 2)) = [] := rfl

theorem witness_SignalledGroupIsEventuallyWoken :
    IsRun shortRun ∧ WeaklyFair shortRun ∧ HooksReturn shortRun ∧ (∀ m, (shortRun m).fault = none) ∧
    (shortRun 0).sigOf .rtc ≠ 0 := by
  refine ⟨fun n => .inl (shortRun_step n), fun t n h => ?_, fun n g k h => ?_, fun m => ?_, by decide⟩
  · have := h (n + 2) (by omega)
    simp [shortRun_waits] at this
  · match n with
    | 0 => cases g <;> cases h
    | 1 => cases g <;> cases h
    | _ + 2 => cases g <;> cases h
  · match m with
    | 0 => rfl
    | 1 => rfl
    | _ + 2 => rfl

/-- A state that meets the invariant and has a command waiting. -/
theorem invariant_waiting : (waiting .dbg ⟨0, 4, 0⟩).Inv Config.current := by
  refine ⟨⟨Memory.wf_nil, List.Pairwise.nil, assocSorted_resetWobs _⟩, ?_, ?_, rfl, ?_, Config.current.dacHistLen_pos⟩
  · intro g
    cases g <;> rfl
  · intro g k h
    cases g <;> cases h
  · exact List.length_replicate

theorem witness_StepKeepsTheInvariant :
    (waiting .dbg ⟨0, 4, 0⟩).Inv Config.current ∧ ∃ t, step (waiting .dbg ⟨0, 4, 0⟩) = .next t :=
  ⟨invariant_waiting, _, rfl⟩

theorem witness_InputKeepsTheInvariant : (waiting .dbg ⟨0, 4, 0⟩).Inv Config.current := invariant_waiting

theorem witness_ResetState :
    (∃ t, step signalled = .next t) ∧ HostInput.present .clk ⟨9, 0, 0⟩ ≠ .reset ∧
    ∀ p, Config.current.addr .pend ≠ Config.current.addr (.gpioIn p) := ⟨⟨_, rfl⟩, nofun, fun p => by simp⟩

theorem witness_FacadeSelectorsAreValidated :
    3 < 4 ∧ (0 : Int) ≤ 31 ∧ (31 : Int) ≤ 31 ∧ ¬ ((4 : Nat) < 4 ∧ (0 : Int) ≤ 0 ∧ (0 : Int) ≤ 31) ∧
    ¬ ((0 : Nat) < 4 ∧ (0 : Int) ≤ 32 ∧ (32 : Int) ≤ 31) ∧ ¬ ((0 : Nat) < 4 ∧ (0 : Int) ≤ -1 ∧ (-1 : Int) ≤ 31) := by
  decide

theorem witness_PinOperationsChangeOneBit :
    31 ≤ 31 ∧ (atPort (.fw 0)).BusOrigin ∧ (atPort (.fw 0)).MapsWf ∧
    (atPort (.fw 0)).Unobserved (Config.current.addr (.gpioCtrl .d)) ∧
    (atPort (.fw 0)).Unobserved (Config.current.addr (.gpioOut .d)) ∧
    (atPort (.fw 0)).Unobserved (Config.current.addr (.gpioInt .d)) :=
  ⟨by decide, busOrigin_fw 0, maps_atPort _, unobserved_atPort _ nofun, unobserved_atPort _ nofun,
    unobserved_atPort _ nofun⟩

theorem witness_ToggleTwiceAndSetClearRestore :
    31 ≤ 31 ∧ (atPort (.fw 0)).BusOrigin ∧ (atPort (.fw 0)).MapsWf ∧
    (atPort (.fw 0)).Unobserved (Config.current.addr (.gpioOut .d)) ∧
    ((atPort (.fw 0)).reg Config.current (.gpioOut .d)).getLsbD 31 = false :=
  ⟨by decide, busOrigin_fw 0, maps_atPort _, unobserved_atPort _ nofun, rfl⟩

theorem witness_DacHistoryIsCircular :
    ({ resetOn testConfig with widx := 3 } : State).hist.length = testConfig.dacHistLen ∧
    ({ resetOn testConfig with widx := 3 } : State).widx < testConfig.dacHistLen ∧
    ([1, 2, 3, 4] : List Sample).length = testConfig.dacHistLen := by decide

end Sys2Proof.Machine.Tests
end

section
/-! Every step keeps the invariant (R39, R41, R43, R219, R221). It does not hold inside a cascade, where `ACTIVE` is not
empty: what every piece of a transaction keeps is the invariant up to `ACTIVE`, and that a step ends with `ACTIVE` empty
is shown apart. -/

namespace Sys2Proof.Machine

/-! ## What the updates of `LOOP`, `SNAP` and the history do to the invariant -/

section Updates

variable {c : Config} {s : State} {g : Group}

theorem State.Inv.setLoop (h : s.Inv c) {l : LoopState} (hl : ∀ k, l = .call k → k.group = g) :
    (s.setLoop g l).Inv c :=
  { h with
    maps := ⟨h.maps.cells, h.maps.robs, h.maps.wobs⟩
    callInGroup := by
      intro j k hk
      rw [State.loopOf_setLoop] at hk
      split at hk
      · subst j
        exact hl k hk
      · exact h.callInGroup j k hk }

theorem State.Inv.setSnap (h : s.Inv c) {m : Word} (hm : m &&& ~~~ g.mask = 0) : (s.setSnap g m).Inv c :=
  { h with
    maps := ⟨h.maps.cells, h.maps.robs, h.maps.wobs⟩
    snapMasked := by
      intro j
      rw [State.snapOf_setSnap]
      split
      · subst j
        exact hm
      · exact h.snapMasked j }

theorem State.Inv.appendSample (h : s.Inv c) (v : Sample) : (s.appendSample c v).Inv c :=
  { h with
    maps := ⟨h.maps.cells, h.maps.robs, h.maps.wobs⟩
    histLen := (List.length_set ..).trans h.histLen
    widxBound := Nat.mod_lt _ c.dacHistLen_pos }

/-- A snapshot under a mask holds no bit outside it (R219). -/
theorem and_mask_masked (p m : Word) : (p &&& m) &&& ~~~ m = 0 := by
  simp [BitVec.and_assoc]

/-- Fewer bits of a masked snapshot are a masked snapshot (R221). -/
theorem and_masked {m n k : Word} (hm : m &&& ~~~ n = 0) : (m &&& k) &&& ~~~ n = 0 := by
  rw [BitVec.and_assoc, BitVec.and_comm k, ← BitVec.and_assoc, hm]
  exact BitVec.zero_and

theorem State.Inv.dispatchSource (h : s.Inv c) (k : Source) : (dispatchSource c k.group k s).Inv c := by
  have hs := h.setSnap (and_masked (k := ~~~ k.bit) (h.snapMasked k.group))
  simp only [Machine.dispatchSource]
  split
  · exact hs.setLoop fun k' e => by rw [LoopState.call.inj e]
  · exact hs

end Updates

/-! ## The invariant up to `ACTIVE` -/

/-- The invariant of the state with `ACTIVE` emptied: it holds inside a transaction too. -/
def State.InvUpToActive (c : Config) (s : State) : Prop := s.clearActive.Inv c

theorem State.inv_iff {c : Config} {s : State} : s.Inv c ↔ s.InvUpToActive c ∧ s.active = [] := by
  constructor
  · intro h
    exact ⟨(State.clearActive_of_empty h.idle).symm ▸ h, h.idle⟩
  · rintro ⟨h, ha⟩
    exact State.clearActive_of_empty ha ▸ h

/-- Dispatch of a source does not touch `ACTIVE` (R221). -/
theorem dispatchSource_clearActive (c : Config) (g : Group) (k : Source) (s : State) :
    dispatchSource c g k s.clearActive = (dispatchSource c g k s).clearActive := by
  simp only [dispatchSource]
  split <;> rfl

/-- Everything any step does keeps the invariant up to `ACTIVE`, under every observer. -/
theorem invUpToActive_kept :
    StepKept (fun s t : State => s.InvUpToActive Config.current → t.InvUpToActive Config.current) where
  refl _ h := h
  trans _ _ _ h1 h2 := h2 ∘ h1
  setCell _ a v h := { h with maps := mapsWf_kept.setCell _ a v h.maps }
  setRobs _ a x h := { h with maps := mapsWf_kept.setRobs _ a x h.maps }
  setWobs _ a o h := { h with maps := mapsWf_kept.setWobs _ a o h.maps }
  release _ h := { h with maps := mapsWf_kept.release _ h.maps }
  setFault _ h := { h with maps := mapsWf_kept.setFault _ h.maps }
  push _ _ _ h := h
  pop _ h := h
  releaseAny _ g h := { h with maps := mapsWf_kept.releaseAny _ g h.maps }
  clear _ h := h
  respond _ r h := { h with maps := mapsWf_kept.respond _ r h.maps }
  silent _ h := { h with maps := mapsWf_kept.silent _ h.maps }
  append _ v h := h.appendSample v
  leave _ src h := h.setLoop (g := src.group) (l := .scan) nofun
  take _ _ h := { h with maps := ⟨h.maps.cells, h.maps.robs, h.maps.wobs⟩ }
  snapshot _ g p h := h.setSnap (and_mask_masked p g.mask)
  toScan _ _ h := h.setLoop nofun
  toWait _ _ h := h.setLoop nofun
  dispatch _ k h := by
    rw [State.InvUpToActive, ← dispatchSource_clearActive]
    exact State.Inv.dispatchSource h k
  drawn _ h := { h with maps := ⟨h.maps.cells, h.maps.robs, h.maps.wobs⟩ }
  accept _ _ _ h := { h with maps := ⟨h.maps.cells, h.maps.robs, h.maps.wobs⟩ }

/-! ## A step ends with `ACTIVE` empty (R41) -/

/-- How a command ends: a failed check is answered and nothing else changes, or its transaction is closed. -/
def CommandEnds (s t : State) : Prop := (∃ r, t = s.respond r) ∨ ∃ r, t = closeCommand r

theorem command_ends (allowed : Bool) (tx : State → TxResult Word) (s : State) :
    CommandEnds s (command allowed tx s) := by
  cases allowed with
  | false => exact .inl ⟨_, rfl⟩
  | true => exact .inr ⟨_, rfl⟩

theorem hretOn_ends (k : Byte) (s : State) : CommandEnds s (hretOn k s) := by
  unfold hretOn
  split
  · exact .inl ⟨_, rfl⟩
  · split
    · split
      · exact .inr ⟨_, rfl⟩
      · exact .inl ⟨_, rfl⟩
    · exact .inl ⟨_, rfl⟩

theorem exec_ends (i : Instr) {s t : State} (e : exec i s = .next t) : CommandEnds s t := by
  cases i with
  | setwobsGpioIn a p =>
    obtain rfl := Host.Outcome.next.inj e
    unfold setwobsGpioInOn
    split
    · exact command_ends _ _ s
    · exact .inl ⟨_, rfl⟩
  | assertSource k =>
    obtain rfl := Host.Outcome.next.inj e
    unfold assertOn
    split
    · exact command_ends _ _ s
    · exact .inl ⟨_, rfl⟩
  | hret k =>
    obtain rfl := Host.Outcome.next.inj e
    exact hretOn_ends k s
  | _ =>
    obtain rfl := Host.Outcome.next.inj e
    exact command_ends _ _ s

theorem CommandEnds.idle {s t : State} (h : CommandEnds s t) (hs : s.active = []) : t.active = [] := by
  obtain ⟨r, rfl⟩ | ⟨r, rfl⟩ := h
  · exact hs
  · exact closeCommand_active r

theorem wakeOn_active (c : Config) (g : Group) (s : State) : (wakeOn c g s).active = [] := by
  unfold wakeOn
  cases wakeTx c (cascade c) g s.clearActive <;> rfl

/-- A scan starts no cascade (R221). -/
theorem scanOn_active (c : Config) (g : Group) (s : State) : (scanOn c g s).active = s.active := by
  unfold scanOn
  split
  · simp only [dispatchSource]
    split <;> rfl
  · rfl

theorem step_idle {s t : State} (e : step s = .next t) (hs : s.active = []) : t.active = [] := by
  obtain ⟨-, ⟨-, rfl⟩ | ⟨u, -, hr⟩⟩ := step_cases e
  · exact hs
  · cases u with
    | request o =>
      obtain rfl | ⟨cmd, rest, -, ⟨i, -, he⟩ | ⟨_, -, rfl⟩⟩ := runTurn_request_cases hr
      · exact hs
      · exact (exec_ends i he).idle hs
      · exact hs
    | wake g =>
      obtain rfl := Host.Outcome.next.inj hr
      exact wakeOn_active _ g _
    | scan g =>
      obtain rfl := Host.Outcome.next.inj hr
      exact (scanOn_active _ g _).trans hs

/-- Settles O52: everything a step does keeps the invariant up to `ACTIVE`, and a step that begins with `ACTIVE` empty
ends so. -/
theorem stepKeepsTheInvariant : Obligations.StepKeepsTheInvariant := by
  intro s t hs e
  obtain ⟨hinv, hidle⟩ := State.inv_iff.1 hs
  exact State.inv_iff.2 ⟨step_keeps invUpToActive_kept e hinv, step_idle e hidle⟩

end Sys2Proof.Machine
end

section
/-! The decoder and the encoder agree (R80 to R89). One case split over the operations says what the decoder answers
once `OP` and `RSV` are legal (`decodeOp_outcome`); which encodings are illegal and what a header means are read off it. -/

namespace Sys2Proof.Machine

/-! ## The checks of the decoder, in their order (R89) -/

theorem decode_of_reservedOp {c : Command} (h : 0xE ≤ c.op.toNat) : decode c = .error .reservedOp := if_pos h

theorem decode_of_rsv_ne {c : Command} (h : c.op.toNat < 0xE) (hr : c.rsv ≠ 0) : decode c = .error .reservedBits :=
  (if_neg (Nat.not_le.2 h)).trans (if_pos hr)

theorem decode_of_rsv_eq {c : Command} (h : c.op.toNat < 0xE) (hr : c.rsv = 0) : decode c = decodeOp c :=
  (if_neg (Nat.not_le.2 h)).trans (if_neg (not_not.2 hr))

/-- A nonzero `RSV` is illegal under every `OP` (R82). -/
theorem exists_decode_error_of_rsv_ne {c : Command} (hr : c.rsv ≠ 0) : ∃ e, decode c = .error e := by
  by_cases h : c.op.toNat < 0xE
  · exact ⟨_, decode_of_rsv_ne h hr⟩
  · exact ⟨_, decode_of_reservedOp (Nat.le_of_not_lt h)⟩

/-- `AUX[7] = 1` as a bound on the field. -/
theorem auxExternal_iff (c : Command) : c.auxExternal = true ↔ 0x80 ≤ c.aux.toNat := by
  have h := BitVec.msb_eq_decide c.aux
  rw [BitVec.msb_eq_getLsbD_last] at h
  simpa [Command.auxExternal] using congrArg (· = true) h

/-! ## What the decoder answers once `OP` and `RSV` are legal -/

/-- What the checks of R86 and R87 come to for `c`: where `legal` holds, a well-formed instruction with the very header
of `c`; elsewhere an error about `AUX` or about the parameter. -/
def AuxOutcome (c : Command) (legal : Prop) : Except DecodeError Instr → Prop
  | .ok i => legal ∧ i.wellFormed = true ∧ (encode i).hdr = c.hdr
  | .error e => ¬ legal ∧ (e = .badAux ∨ e = .badParam)

theorem AuxOutcome.exists_ok_iff {c : Command} {legal : Prop} {r : Except DecodeError Instr}
    (h : AuxOutcome c legal r) : (∃ i, r = .ok i) ↔ legal := by
  cases r with
  | ok i => exact iff_of_true ⟨i, rfl⟩ h.1
  | error e => exact iff_of_false nofun h.1

theorem AuxOutcome.eq_error {c : Command} {legal : Prop} {r : Except DecodeError Instr}
    (h : AuxOutcome c legal r) (hl : ¬ legal) : r = .error .badAux ∨ r = .error .badParam := by
  cases r with
  | ok i => exact absurd h.1 hl
  | error e => exact h.2.imp (congrArg _) (congrArg _)

section Outcomes

variable {c : Command} (hr : c.rsv = 0)

include hr

/-- The header of a command whose `RSV` is 0, from the values of its other fields. -/
theorem header_eq_hdr {n : Nat} {k : Byte} (ho : c.op.toNat = n) (hk : c.aux = k) : header (.ofNat 4 n) k = c.hdr := by
  rw [← c.op_eq_of_toNat ho, ← hk]
  exact header_of_fields c hr

theorem decodePlain_outcome {n : Nat} (ho : c.op.toNat = n) {i : Instr} (hw : i.wellFormed = true)
    (hi : (encode i).hdr = header (.ofNat 4 n) 0) : AuxOutcome c (c.aux = 0) (decodePlain c i) := by
  unfold decodePlain
  split
  case isTrue h => exact ⟨h, hw, hi.trans (header_eq_hdr hr ho h)⟩
  case isFalse h => exact ⟨h, .inl rfl⟩

theorem decodeSetRobs_outcome (ho : c.op.toNat = 0x5) : AuxOutcome c (0x80 ≤ c.aux.toNat) (decodeSetRobs c) := by
  unfold decodeSetRobs
  split
  case isTrue h => exact ⟨(auxExternal_iff c).1 h, rfl, header_eq_hdr hr ho (externalAux_of_aux c h).symm⟩
  case isFalse h => exact ⟨mt (auxExternal_iff c).2 h, .inl rfl⟩

theorem decodeSetWobs_outcome (ho : c.op.toNat = 0x6) :
    AuxOutcome c ((c.aux = 0x01 ∧ c.data.toNat ≤ 3) ∨ 0x80 ≤ c.aux.toNat) (decodeSetWobs c) := by
  unfold decodeSetWobs
  rw [← auxExternal_iff, ← Port.ofIndex_isSome_iff]
  split
  case isTrue h =>
    have hx : ¬ c.auxExternal = true := by rw [auxExternal_iff, h]; decide
    split
    case isTrue hp => exact ⟨.inl ⟨h, hp⟩, hp, header_eq_hdr hr ho h⟩
    case isFalse hp => exact ⟨fun hl => hl.elim (fun hl => hp hl.2) hx, .inr rfl⟩
  case isFalse h =>
    split
    case isTrue hx => exact ⟨.inr hx, rfl, header_eq_hdr hr ho (externalAux_of_aux c hx).symm⟩
    case isFalse hx => exact ⟨fun hl => hl.elim (fun hl => h hl.1) hx, .inl rfl⟩

theorem decodeSource_outcome {n : Nat} (ho : c.op.toNat = n) {i : Instr}
    (hw : i.wellFormed = (Source.ofAux c.aux).isSome) (hi : (encode i).hdr = header (.ofNat 4 n) c.aux) :
    AuxOutcome c (c.aux.toNat ∈ [0, 1, 2, 3, 14, 16, 23]) (decodeSource c i) := by
  unfold decodeSource
  rw [← Source.ofAux_isSome_iff]
  split
  case isTrue h => exact ⟨h, hw.trans h, hi.trans (header_eq_hdr hr ho rfl)⟩
  case isFalse h => exact ⟨h, .inl rfl⟩

/-- The one case split over the operations (R85, R86). -/
theorem decodeOp_outcome (h : c.op.toNat < 0xE) : AuxOutcome c (AuxLegal c) (decodeOp c) := by
  unfold decodeOp
  split
  case h_15 =>
    simp only [imp_false] at *
    omega
  all_goals
    rename_i ho
    simp only [AuxLegal, ho]
  case h_6 => exact decodeSetRobs_outcome hr ho
  case h_7 => exact decodeSetWobs_outcome hr ho
  case h_13 | h_14 => exact decodeSource_outcome hr ho rfl rfl
  all_goals exact decodePlain_outcome hr ho rfl rfl

end Outcomes

/-- A command is an instruction exactly when each of the three checks on its encoding passes (R86, R87). -/
theorem exists_decode_iff (c : Command) :
    (∃ i, decode c = .ok i) ↔ c.op.toNat < 0xE ∧ c.rsv = 0 ∧ AuxLegal c := by
  by_cases h : c.op.toNat < 0xE
  · by_cases hr : c.rsv = 0
    · rw [decode_of_rsv_eq h hr, (decodeOp_outcome hr h).exists_ok_iff]
      simp only [h, hr, true_and]
    · rw [decode_of_rsv_ne h hr]
      exact iff_of_false nofun fun hl => hr hl.2.1
  · rw [decode_of_reservedOp (Nat.le_of_not_lt h)]
    exact iff_of_false nofun fun hl => h hl.1

/-- Settles O4: what decodes has passed the checks of `OP` and `RSV`, and `decodeOp_outcome` says the rest. -/
theorem decodedHeaderIsTheEncoded : Obligations.DecodedHeaderIsTheEncoded := by
  intro c i hd
  obtain ⟨h, hr, -⟩ := (exists_decode_iff c).1 ⟨i, hd⟩
  have ho := decodeOp_outcome hr h
  rw [← decode_of_rsv_eq h hr, hd] at ho
  exact ho.2

/-! ## Encoding and decoding back (R80 to R86) -/

/-- The encoder's `RSV` is 0, so only the operation decides. -/
theorem decode_header {op : BitVec 4} (h : op.toNat < 0xE) (k : Byte) (a : Addr) (d : Word) :
    decode ⟨header op k, a, d⟩ = decodeOp ⟨header op k, a, d⟩ :=
  decode_of_rsv_eq (by rwa [header_op]) (header_rsv ..)

@[simp] theorem decodePlain_header (op : BitVec 4) (a : Addr) (d : Word) (i : Instr) :
    decodePlain ⟨header op 0#8, a, d⟩ i = .ok i :=
  if_pos (header_aux ..)

theorem decodeOp_assertSource_header {k : Byte} (hk : (Source.ofAux k).isSome = true) (a : Addr) (d : Word) :
    decodeOp ⟨header 0xC k, a, d⟩ = .ok (.assertSource k) := by
  simp [decodeOp, decodeSource, hk]

theorem decodeOp_hret_header {k : Byte} (hk : (Source.ofAux k).isSome = true) (a : Addr) (d : Word) :
    decodeOp ⟨header 0xD k, a, d⟩ = .ok (.hret k) := by
  simp [decodeOp, decodeSource, hk]

/-- The external kinds are not the kind `GPIO_IN` (R84). -/
theorem externalAux_ne_one (h : Handle) : externalAux h ≠ 1#8 := by
  intro e
  simpa [e] using externalAux_bit7 h

/-- The byte of `UARTRX` is `data[7:0]` (R83). -/
@[simp] theorem extractLsb'_uartByteWord (b : Byte) : (uartByteWord b).extractLsb' 0 8 = b :=
  BitVec.eq_of_toNat_eq (by simp [uartByteWord]; omega)

theorem decode_encode (i : Instr) : decode (encode i) = decodeOp (encode i) := by
  cases i <;> exact decode_header (by decide) ..

/-- Settles O3, by the kind of `AUX` that each operation takes. -/
theorem decodeOfEncode : Obligations.DecodeOfEncode := by
  intro i hw
  rw [decode_encode]
  cases i with
  | setrobs a h p => simp [encode, decodeOp, decodeSetRobs, Command.auxExternal, Command.auxHandle]
  | setwobsGpioIn a p =>
    have hp : (Port.ofIndex p.toNat).isSome = true := hw
    simp [encode, decodeOp, decodeSetWobs, hp]
  | setwobsExternal a h p =>
    simp [encode, decodeOp, decodeSetWobs, Command.auxExternal, Command.auxHandle, externalAux_ne_one]
  | assertSource k => exact decodeOp_assertSource_header hw 0 0
  | hret k => exact decodeOp_hret_header hw 0 0
  | _ => simp [encode, decodeOp]

/-- R91: the two words of a source, at every `addr` and `data`. -/
theorem decode_source_words {k : Byte} (hk : (Source.ofAux k).isSome = true) (a : Addr) (d : Word) :
    decode ⟨header 0xC k, a, d⟩ = .ok (.assertSource k) ∧ decode ⟨header 0xD k, a, d⟩ = .ok (.hret k) :=
  ⟨(decode_header (by decide) ..).trans (decodeOp_assertSource_header hk a d),
    (decode_header (by decide) ..).trans (decodeOp_hret_header hk a d)⟩

/-- Settles O1: each word is the header of its operation and its source. -/
theorem assertAndHretWordsDecode : Obligations.AssertAndHretWordsDecode := fun a d =>
  ⟨decode_source_words (k := 0) rfl a d, decode_source_words (k := 1) rfl a d, decode_source_words (k := 2) rfl a d,
    decode_source_words (k := 3) rfl a d, decode_source_words (k := 14) rfl a d, decode_source_words (k := 16) rfl a d,
    decode_source_words (k := 23) rfl a d⟩

/-- Settles O2: eight fixed words, by running the decoder. -/
theorem familyWordsDecode : Obligations.FamilyWordsDecode := by
  unfold Obligations.FamilyWordsDecode
  decide

/-! ## The fields an operation does not use (R82) -/

/-- The decoder reads `OP` and `RSV` from the header alone. -/
theorem decode_congr {h : BitVec 16} {a a' : Addr} {d d' : Word}
    (ho : decodeOp ⟨h, a, d⟩ = decodeOp ⟨h, a', d'⟩) : decode ⟨h, a, d⟩ = decode ⟨h, a', d'⟩ := by
  unfold decode
  rw [ho]
  rfl

/-- RTCTICK, DACTICK, ASSERT and HRET use neither `addr` nor `data`. -/
theorem decode_ignores_addr_data {h : BitVec 16} {a : Addr} {d : Word}
    (ho : (Command.mk h a d).op.toNat ∈ [0x9, 0xA, 0xC, 0xD]) (a' : Addr) (d' : Word) :
    decode ⟨h, a, d⟩ = decode ⟨h, a', d'⟩ := by
  apply decode_congr
  simp only [List.mem_cons, List.not_mem_nil, or_false, Command.op] at ho
  rcases ho with ho | ho | ho | ho <;>
  · simp only [decodeOp, Command.op, ho]
    rfl

/-- RD and DRD do not use `data`. -/
theorem decode_read_ignores_data {h : BitVec 16} {a : Addr} {d : Word}
    (ho : (Command.mk h a d).op.toNat ∈ [0x0, 0x7]) (d' : Word) : decode ⟨h, a, d⟩ = decode ⟨h, a, d'⟩ := by
  apply decode_congr
  simp only [List.mem_cons, List.not_mem_nil, or_false, Command.op] at ho
  rcases ho with ho | ho <;>
  · simp only [decodeOp, Command.op, ho]
    rfl

/-- UARTRX uses `data[7:0]` alone. -/
theorem decode_uartrx_congr {h : BitVec 16} {a : Addr} {d d' : Word} (ho : (Command.mk h a d).op.toNat = 0xB)
    (hd : d.extractLsb' 0 8 = d'.extractLsb' 0 8) (a' : Addr) : decode ⟨h, a, d⟩ = decode ⟨h, a', d'⟩ := by
  apply decode_congr
  simp only [Command.op] at ho
  simp only [decodeOp, Command.op, ho, hd]
  rfl

/-- Settles O7, by the operations that use neither field and those that use a part. -/
theorem unusedFieldsAreIgnored : Obligations.UnusedFieldsAreIgnored := by
  refine ⟨fun h a a' d ho => ?_, fun h a d d' ho => ?_, fun h a d d' ho hd => decode_uartrx_congr ho hd a,
    fun c => exists_decode_error_of_rsv_ne⟩
  · by_cases hB : (Command.mk h a d).op.toNat = 0xB
    · exact decode_uartrx_congr hB rfl a'
    · exact decode_ignores_addr_data (by simp_all) a' d
  · by_cases hr : (Command.mk h a d).op.toNat ∈ [0x0, 0x7]
    · exact decode_read_ignores_data hr d'
    · exact decode_ignores_addr_data (by simp_all) a d'

end Sys2Proof.Machine
end

section
/-! The opcode table (R90): its rows do not overlap, and with the side conditions of R86 and R87 they are what the
decoder accepts. -/

namespace Sys2Proof.Machine

/-- Two rows that match one header agree on the bits that both fix. -/
theorem patterns_agree {hdr : BitVec 16} {r r' : OpcodeRow} (h : r.matches hdr = true) (h' : r'.matches hdr = true) :
    r.pattern &&& r'.mask = r'.pattern &&& r.mask := by
  rw [← beq_iff_eq.1 h, ← beq_iff_eq.1 h', BitVec.and_assoc, BitVec.and_assoc, BitVec.and_comm r.mask]

/-- Any two rows of the table differ in a bit that both fix. -/
theorem opcodeRows_apart : ∀ r ∈ opcodeRows, ∀ r' ∈ opcodeRows,
    r.pattern &&& r'.mask = r'.pattern &&& r.mask → r = r' := by decide

/-- Settles O6: two rows that match one header cannot differ in a bit that both fix. -/
theorem opcodeRowsDoNotOverlap : Obligations.OpcodeRowsDoNotOverlap :=
  fun _ r r' hr hr' h h' => opcodeRows_apart r hr r' hr' (patterns_agree h h')

/-- The mask of a row as a command, so that the fields it fixes have names. -/
def rowMask (r : OpcodeRow) : Command := ⟨r.mask, 0, 0⟩

/-- The pattern of a row as a command. -/
def rowPattern (r : OpcodeRow) : Command := ⟨r.pattern, 0, 0⟩

/-- A row matches a header field by field. -/
theorem fields_of_matches {r : OpcodeRow} {c : Command} (h : r.matches c.hdr = true) :
    c.op &&& (rowMask r).op = (rowPattern r).op ∧ c.rsv &&& (rowMask r).rsv = (rowPattern r).rsv ∧
    c.aux &&& (rowMask r).aux = (rowPattern r).aux := by
  simp only [rowMask, rowPattern, ← beq_iff_eq.1 h, Command.op, Command.rsv, Command.aux, BitVec.extractLsb'_and,
    and_self]

/-- Every row fixes a legal `OP` and `RSV = 0`. -/
theorem opcodeRows_op_rsv : ∀ r ∈ opcodeRows, (rowMask r).op = .allOnes 4 ∧ (rowMask r).rsv = .allOnes 4 ∧
    (rowPattern r).op.toNat < 0xE ∧ (rowPattern r).rsv = 0 := by decide

/-- What the rows fix of `AUX` (R86): that it is 0, that it is the kind `GPIO_IN`, the top bit of an external kind, or
nothing, where it is a source. -/
theorem opcodeRows_aux : ∀ r ∈ opcodeRows,
    ((rowPattern r).op.toNat ∉ [0x5, 0x6, 0xC, 0xD] ∧ (rowMask r).aux = .allOnes 8 ∧ (rowPattern r).aux = 0) ∨
    (r.mnemonic = "SETWOBS__GPIO_IN" ∧ (rowPattern r).op.toNat = 0x6 ∧ (rowMask r).aux = .allOnes 8 ∧
      (rowPattern r).aux = 1) ∨
    ((rowPattern r).op.toNat ∈ [0x5, 0x6] ∧ (rowMask r).aux = 0x80 ∧ (rowPattern r).aux = 0x80) ∨
    (r.mnemonic = "ASSERT" ∨ r.mnemonic = "HRET") ∧ (rowPattern r).op.toNat ∈ [0xC, 0xD] := by decide

theorem le_toNat_of_and_eq {k : Byte} (h : k &&& 0x80 = 0x80) : 0x80 ≤ k.toNat := by
  have hk : (k &&& 0x80).toNat ≤ k.toNat := by
    rw [BitVec.toNat_and]
    exact Nat.and_le_left
  rwa [h] at hk

theorem op_rsv_of_matches {r : OpcodeRow} {c : Command} (hr : r ∈ opcodeRows) (h : r.matches c.hdr = true) :
    c.op = (rowPattern r).op ∧ c.op.toNat < 0xE ∧ c.rsv = 0 := by
  obtain ⟨hop, hrsv, -⟩ := fields_of_matches h
  obtain ⟨mop, mrsv, hlt, hz⟩ := opcodeRows_op_rsv r hr
  rw [mop, BitVec.and_allOnes] at hop
  rw [mrsv, BitVec.and_allOnes] at hrsv
  exact ⟨hop, hop ▸ hlt, hrsv.trans hz⟩

/-- What R86 and R87 ask of a command beside a header of the row of `m`. -/
def SideConditions (m : String) (c : Command) : Prop :=
  (m = "ASSERT" ∨ m = "HRET" → c.aux.toNat ∈ [0, 1, 2, 3, 14, 16, 23]) ∧ (m = "SETWOBS__GPIO_IN" → c.data.toNat ≤ 3)

/-- A header that matches a row is legal if the command meets the side conditions of R86 and R87. -/
theorem auxLegal_of_matches {r : OpcodeRow} {c : Command} (hr : r ∈ opcodeRows) (h : r.matches c.hdr = true)
    (hs : SideConditions r.mnemonic c) : AuxLegal c := by
  obtain ⟨hk, hp⟩ := hs
  have hop := (op_rsv_of_matches hr h).1
  obtain ⟨-, -, haux⟩ := fields_of_matches h
  unfold AuxLegal
  rw [hop]
  obtain ⟨ho, hm, hx⟩ | ⟨hn, ho, hm, hx⟩ | ⟨ho, hm, hx⟩ | ⟨hn, ho⟩ := opcodeRows_aux r hr
  · rw [hm, hx, BitVec.and_allOnes] at haux
    split <;> simp_all
  · rw [hm, hx, BitVec.and_allOnes] at haux
    rw [ho]
    exact .inl ⟨haux, hp hn⟩
  · rw [hm, hx] at haux
    have hle := le_toNat_of_and_eq haux
    simp only [List.mem_cons, List.not_mem_nil, or_false] at ho
    obtain ho | ho := ho <;> rw [ho]
    · exact hle
    · exact .inr hle
  · simp only [List.mem_cons, List.not_mem_nil, or_false] at ho
    obtain ho | ho := ho <;> rw [ho] <;> exact hk hn

/-- Every well-formed instruction has a row (R90). -/
theorem exists_row (i : Instr) : Laws.Row.Statement i := by
  cases i with
  | rd a => exact Laws.Row.rd a
  | wr a v => exact Laws.Row.wr a v
  | mand a imm => exact Laws.Row.mand a imm
  | mor a imm => exact Laws.Row.mor a imm
  | mxor a imm => exact Laws.Row.mxor a imm
  | setrobs a h p => exact Laws.Row.setrobs a h p
  | setwobsGpioIn a p => exact Laws.Row.setwobsGpioIn a p
  | setwobsExternal a h p => exact Laws.Row.setwobsExternal a h p
  | drd a => exact Laws.Row.drd a
  | dwr a v => exact Laws.Row.dwr a v
  | rtctick => exact Laws.Row.rtctick
  | dactick => exact Laws.Row.dactick
  | uartrx b => exact Laws.Row.uartrx b
  | assertSource k => exact Laws.Row.assertSource k
  | hret k => exact Laws.Row.hret k

/-- The row of a decoded instruction matches the command's own header. -/
theorem exists_row_of_decode {c : Command} {i : Instr} (hd : decode c = .ok i) :
    ∃ r ∈ opcodeRows, r.mnemonic = i.mnemonic ∧ r.matches c.hdr = true := by
  obtain ⟨hw, hh⟩ := decodedHeaderIsTheEncoded c i hd
  rw [← hh]
  exact exists_row i hw

/-- The fields of a command whose header the encoder built. -/
theorem op_aux_of_header {c : Command} {op : BitVec 4} {k : Byte} (h : header op k = c.hdr) : c.op = op ∧ c.aux = k := by
  obtain ⟨hdr, a, d⟩ := c
  subst h
  exact ⟨header_op .., header_aux ..⟩

/-- What decodes meets the side conditions of its row. -/
theorem sideConditions_of_decode {c : Command} {i : Instr} (hd : decode c = .ok i) : SideConditions i.mnemonic c := by
  obtain ⟨-, -, ha⟩ := (exists_decode_iff c).1 ⟨i, hd⟩
  obtain ⟨-, hh⟩ := decodedHeaderIsTheEncoded c i hd
  cases i with
  | setwobsGpioIn a p =>
    obtain ⟨ho, hx⟩ := op_aux_of_header hh
    simp only [AuxLegal, ho, hx] at ha
    exact ⟨by simp [Instr.mnemonic], fun _ => (ha.resolve_right (by decide)).2⟩
  | assertSource k | hret k =>
    obtain ⟨ho, -⟩ := op_aux_of_header hh
    simp only [AuxLegal, ho] at ha
    exact ⟨fun _ => ha, by simp [Instr.mnemonic]⟩
  | _ => simp [SideConditions, Instr.mnemonic]

/-- Settles O5: a decoded command has its instruction's row; a command of a row passes every check, and what it decodes
to has the same row, since rows do not overlap. -/
theorem decodeAcceptsTheRows : Obligations.DecodeAcceptsTheRows := by
  intro c m
  constructor
  · rintro ⟨i, hd, rfl⟩
    obtain ⟨r, hr, hm, h⟩ := exists_row_of_decode hd
    exact ⟨r, hr, hm, h, sideConditions_of_decode hd⟩
  · rintro ⟨r, hr, rfl, h, hs⟩
    obtain ⟨-, ho, hz⟩ := op_rsv_of_matches hr h
    obtain ⟨i, hd⟩ := (exists_decode_iff c).2 ⟨ho, hz, auxLegal_of_matches hr h hs⟩
    obtain ⟨r', hr', hm, h'⟩ := exists_row_of_decode hd
    exact ⟨i, hd, by rw [opcodeRowsDoNotOverlap c.hdr r r' hr hr' h h', hm]⟩

end Sys2Proof.Machine
end

section
/-! The checks of a granted command in the order of R89 and their answers: the encoding (R87, R211), the origin (R85,
R213) and the call of a hook return (R88). -/

namespace Sys2Proof.Machine

/-! ## Which encodings are illegal (R82, R86, R87) -/

theorem exists_decode_error {c : Command} (h : ¬ ∃ i, decode c = .ok i) : ∃ e, decode c = .error e := by
  cases hd : decode c with
  | ok i => exact absurd ⟨i, hd⟩ h
  | error e => exact ⟨e, rfl⟩

theorem runCommand_of_error {c : Command} {e : DecodeError} (hd : decode c = .error e) (s : State) :
    runCommand c s = .next (s.respond ⟨false, 0x01, 0⟩) := by
  simp only [runCommand, hd]
  rfl

theorem runCommand_of_ok {c : Command} {i : Instr} (hd : decode c = .ok i) (s : State) : runCommand c s = exec i s := by
  simp only [runCommand, hd]

/-- The reserved operations are those from 0xE on. -/
theorem op_reserved_iff (c : Command) : c.op.toNat ∈ [0xE, 0xF] ↔ ¬ c.op.toNat < 0xE := by
  have := c.op.isLt
  simp only [List.mem_cons, List.not_mem_nil, or_false]
  omega

/-- Settles O8: the checks that fail are those of `exists_decode_iff`. -/
theorem illegalEncodingsAreAnswered : Obligations.IllegalEncodingsAreAnswered := by
  intro c s
  rw [op_reserved_iff]
  refine ⟨fun h => ?_, fun ho hr ha => (exists_decode_iff c).2 ⟨not_not.1 ho, hr, ha⟩⟩
  have hn : ¬ ∃ i, decode c = .ok i := by
    rw [exists_decode_iff]
    tauto
  obtain ⟨e, hd⟩ := exists_decode_error hn
  exact runCommand_of_error hd s

/-! ## Origins (R85, R88) -/

theorem command_of_not_allowed {allowed : Bool} (h : ¬ allowed = true) (tx : State → TxResult Word) (s : State) :
    command allowed tx s = s.respond ⟨false, 0x02, 0⟩ := if_neg h

/-- Settles O20: the bus operations share one check, the producers name one port each, HRET a hook. -/
theorem originOutsideTheRowFails : Obligations.OriginOutsideTheRowFails := by
  intro i s hw hn
  cases i with
  | setwobsGpioIn a p =>
    obtain ⟨q, hq⟩ := Option.isSome_iff_exists.1 hw
    simp only [exec, execSetwobsGpioIn, setwobsGpioInOn, hq]
    exact congrArg _ (command_of_not_allowed (mt (mayUseBus_iff s).1 hn) ..)
  | assertSource k =>
    obtain ⟨src, hk⟩ := Option.isSome_iff_exists.1 hw
    simp only [exec, execAssert, assertOn, hk]
    exact congrArg _ (command_of_not_allowed (mt beq_iff_eq.1 hn) ..)
  | hret k =>
    obtain ⟨src, hk⟩ := Option.isSome_iff_exists.1 hw
    have ho : s.origin ≠ .hook src.group := fun e => hn ⟨src, hk, e⟩
    simp only [exec, execHret, hretOn, hk, if_neg ho]
    rfl
  | rtctick | dactick | uartrx => exact congrArg Host.Outcome.next (command_of_not_allowed (mt beq_iff_eq.1 hn) ..)
  | _ => exact congrArg Host.Outcome.next (command_of_not_allowed (mt (mayUseBus_iff s).1 hn) ..)

/-- R224: the hook of the group returns while the loop is in no call of the source. -/
theorem exec_hret_of_no_call {k : Byte} {src : Source} {s : State} (hk : Source.ofAux k = some src)
    (ho : s.origin = .hook src.group) (hl : s.loopOf src.group ≠ .call src) :
    exec (.hret k) s = .next (s.respond ⟨false, 0x04, 0⟩) := by
  simp only [exec, execHret, hretOn, hk, if_pos ho, if_neg hl]
  rfl

/-- Settles O9: each check after the ones before it. -/
theorem checksComeInOrder : Obligations.ChecksComeInOrder := by
  intro c s
  refine ⟨decode_of_reservedOp, decode_of_rsv_ne, ?_, fun e hd => runCommand_of_error hd s, ?_, ?_⟩
  · intro h hr ha
    rw [decode_of_rsv_eq h hr]
    exact (decodeOp_outcome hr h).eq_error ha
  · intro i hd hn
    rw [runCommand_of_ok hd]
    exact originOutsideTheRowFails i s (decodedHeaderIsTheEncoded c i hd).1 hn
  · intro k src hd hk ho hl
    rw [runCommand_of_ok hd]
    exact exec_hret_of_no_call hk ho hl

/-- Settles O11: the step is the grant, and the granted command is answered. -/
theorem stepAnswersAnIllegalCommand : Obligations.StepAnswersAnIllegalCommand := by
  intro s o cmd rest e hf hc ht hd
  have htake : takeHead o s.drawn.inbox = some (cmd, rest) := ht
  rw [step_of_choose hf hc]
  simp only [runTurn, htake, runCommand_of_error hd]
  rfl

end Sys2Proof.Machine
end

section
/-! A placed command is the next to run (log 11): the arbiter's advance choice is the port it is placed at, and that port
is admitted, a hook's because the loop is in the call that the command ends. -/

namespace Sys2Proof.Machine

theorem decodeTableWord_eq_some {nbits w : Nat} {i : Instr} (h : decodeTableWord nbits w = some i) :
    ∃ c, Command.ofTableWord nbits w = some c ∧ decode c = .ok i := by
  unfold decodeTableWord at h
  split at h
  case h_1 c hc =>
    split at h
    case h_1 j hd => exact ⟨c, hc, hd.trans (congrArg _ (Option.some.inj h))⟩
    case h_2 => cases h
  case h_2 => cases h

/-- Only the call that a hook return ends is entered. -/
theorem enterHookFor_eq (cmd : Command) (s : State) :
    enterHookFor cmd s = { s with loop := (enterHookFor cmd s).loop } := by
  unfold enterHookFor
  split
  · split <;> rfl
  · rfl

theorem enterHookFor_hret {cmd : Command} {k : Byte} {src : Source} (hd : decode cmd = .ok (.hret k))
    (hk : Source.ofAux k = some src) (s : State) : enterHookFor cmd s = enterHook src s := by
  simp only [enterHookFor, hd, hk]

theorem enterHookFor_of_ne {cmd : Command} {i : Instr} (hd : decode cmd = .ok i) (hi : ∀ k, i ≠ .hret k) (s : State) :
    enterHookFor cmd s = s := by
  unfold enterHookFor
  split
  · next k e => exact absurd (Except.ok.inj (hd.symm.trans e)) (hi k)
  · rfl

/-- A command placed at the port of a hook is a hook return of its group. -/
theorem legalOrigin_eq_hook {cmd : Command} {g : Group} (h : legalOrigin cmd = .hook g) :
    ∃ k src, decode cmd = .ok (.hret k) ∧ Source.ofAux k = some src ∧ src.group = g := by
  cases hd : decode cmd with
  | error e => simp [legalOrigin, hd] at h
  | ok i =>
    cases i with
    | hret k =>
      cases hk : Source.ofAux k with
      | none => simp [legalOrigin, hd, hk] at h
      | some src => exact ⟨k, src, rfl, hk, by simpa [legalOrigin, hd, hk] using h⟩
    | _ => simp [legalOrigin, hd] at h

theorem originAllowed_of_legalOrigin {cmd : Command} {i : Instr} (hd : decode cmd = .ok i) {t : State}
    (ho : t.origin = legalOrigin cmd) : OriginAllowed t i := by
  have hw := (decodedHeaderIsTheEncoded cmd i hd).1
  simp only [legalOrigin, hd] at ho
  cases i with
  | rtctick | dactick | uartrx | assertSource => exact ho
  | hret k =>
    obtain ⟨src, hk⟩ := Option.isSome_iff_exists.1 hw
    simp only [hk] at ho
    exact ⟨src, hk, ho⟩
  | _ => exact .inl ⟨0, ho⟩

theorem placeCommand_admits (cmd : Command) (s : State) :
    (s.placeCommand cmd).admits (legalOrigin cmd) = true := by
  refine Bool.eq_true_of_not_eq_false fun h => ?_
  obtain ⟨g, hg, hn⟩ := admits_eq_false.1 h
  obtain ⟨k, src, hd, hk, rfl⟩ := legalOrigin_eq_hook hg
  refine hn src ?_
  show (enterHookFor cmd s).loopOf src.group = _
  rw [enterHookFor_hret hd hk]
  exact PerGroup.get_set_same ..

/-- R230: a requester with a command waiting is enabled if it is admitted. -/
theorem request_mem_enabledTurns {s : State} {o : Origin} (hf : s.fault = none) (ho : o ∈ requesters s.inbox)
    (ha : s.admits o = true) : Turn.request o ∈ enabledTurns s := by
  simp [enabledTurns, hf, ho, ha]

theorem takeHead_cons (o : Origin) (cmd : Command) (l : List Request) : takeHead o (⟨o, cmd⟩ :: l) = some (cmd, l) :=
  if_pos rfl

theorem placeCommand_fault (cmd : Command) (s : State) : (s.placeCommand cmd).fault = s.fault := by
  show (enterHookFor cmd s).fault = s.fault
  rw [enterHookFor_eq]

/-- The state in which a placed command runs. -/
def placedState (cmd : Command) (s : State) : State :=
  { s with loop := (enterHookFor cmd s).loop, origin := legalOrigin cmd, draws := s.draws + 1 }

@[simp] theorem placedState_loop (cmd : Command) (s : State) :
    (placedState cmd s).loop = (enterHookFor cmd s).loop := rfl

@[simp] theorem placedState_loopOf (cmd : Command) (s : State) (g : Group) :
    (placedState cmd s).loopOf g = (enterHookFor cmd s).loopOf g := rfl

theorem accept_placeCommand (cmd : Command) (s : State) :
    (s.placeCommand cmd).drawn.accept (legalOrigin cmd) s.inbox = placedState cmd s := by
  unfold State.placeCommand
  rw [enterHookFor_eq]
  rfl

/-- The next step runs a placed command, from the port it was placed at. -/
theorem step_placeCommand {cmd : Command} {i : Instr} {s : State} (hf : s.fault = none) (hd : decode cmd = .ok i) :
    step (s.placeCommand cmd) = exec i (placedState cmd s) := by
  have hf' := (placeCommand_fault cmd s).trans hf
  have hm : Turn.request (legalOrigin cmd) ∈ enabledTurns (s.placeCommand cmd) :=
    request_mem_enabledTurns hf' (mem_requesters.2 ⟨_, .head _, rfl⟩) (placeCommand_admits cmd s)
  have ht : takeHead (legalOrigin cmd) (s.placeCommand cmd).drawn.inbox = some (cmd, s.inbox) := takeHead_cons ..
  rw [step_of_choose hf' (chooseTurn_of_sched rfl hm)]
  simp only [runTurn, ht, runCommand_of_ok hd, accept_placeCommand]

/-- Settles O17: `placedState` differs from `s` in the loops, the origin and the draws, and its loops are those of
`enterHookFor`. -/
theorem placedCommandRunsNext : Obligations.PlacedCommandRunsNext := by
  intro s nbits w i hf hw
  obtain ⟨cmd, hc, hd⟩ := decodeTableWord_eq_some hw
  refine ⟨placedState cmd s, ?_, originAllowed_of_legalOrigin hd rfl, rfl, rfl, rfl, rfl, rfl, rfl, hf, rfl, rfl, rfl,
    fun hi => by rw [placedState_loop, enterHookFor_of_ne hd hi], ?_⟩
  · simp only [State.withFetchWord, hc]
    exact step_placeCommand hf hd
  · rintro k src rfl hk
    simp only [placedState_loopOf, enterHookFor_hret hd hk]
    exact ⟨PerGroup.get_set_same .., fun g hg => PerGroup.get_set_other _ _ hg⟩

end Sys2Proof.Machine
end

section
/-! The bus commands from an origin that may use the bus (R104 to R112, R116): what each answers and changes, the
observers of its address included, and what it leaves alone where its address has none. -/

namespace Sys2Proof.Machine

/-! ## One granted command -/

/-- Settles O10: the step is the grant, and the granted command decodes. -/
theorem stepRunsTheDecodedInstruction : Obligations.StepRunsTheDecodedInstruction := by
  intro s o cmd rest i hf hc ht hd
  have htake : takeHead o s.drawn.inbox = some (cmd, rest) := ht
  rw [step_of_choose hf hc]
  simp only [runTurn, htake, runCommand_of_ok hd]
  rfl

/-- The origin check passes, and the transaction runs (R85, R100). -/
theorem command_of_busOrigin {s : State} (ho : s.BusOrigin) (tx : State → TxResult Word) :
    command (mayUseBus s) tx s = closeCommand (tx s.clearActive) := if_pos ((mayUseBus_iff s).2 ho)

/-! ## The observer of the address (R101, R102) -/

/-- Settles O27: each clause is a case of what the slot holds. -/
theorem observerFiresWithTheEvent : Obligations.ObserverFiresWithTheEvent := by
  intro run a v old s
  exact ⟨fireRead_of_none, fun x h => by simp only [fireRead, h], fireWrite_of_none,
    fun o h => by simp only [fireWrite, h]⟩

/-! ## Reads (R104, R111) -/

theorem rdOn_of_busOrigin {s : State} (ho : s.BusOrigin) (c : Config) (a : Addr) :
    rdOn c a s = closeCommand ((fireRead (cascade c) a (s.cell a) s.clearActive).bind fun _ t => .ok (s.cell a) t) :=
  command_of_busOrigin ho _

/-- Settles O23: DRD is RD (R111), and the value is sampled before the read observer runs. -/
theorem readsAnswerTheSampledValue : Obligations.ReadsAnswerTheSampledValue := by
  intro a s ho i hi
  have he : exec i s = .next (rdOn Config.current a s) := by
    simp only [List.mem_cons, List.not_mem_nil, or_false] at hi
    obtain rfl | rfl := hi <;> rfl
  have hok : ∀ t, fireRead (cascade Config.current) a (s.cell a) s.clearActive = .ok () t →
      exec i s = .next (t.clearActive.respond ⟨true, 0x00, s.cell a⟩) := by
    intro t h
    rw [he, rdOn_of_busOrigin ho, h]
    rfl
  refine ⟨hok, fun h => hok s.clearActive (fireRead_of_none h), fun c t h => ?_⟩
  have hhalt : rdOn c a s = t.clearActive.noResponse := by
    rw [rdOn_of_busOrigin ho, h]
    rfl
  exact ⟨hhalt, hhalt⟩

/-! ## Stores (R105, R112) -/

/-- A store of another value stores and fires (R105). -/
theorem busStore_of_ne {run : Runner} {a : Addr} {old new : Word} {s : State} (h : new ≠ old) :
    busStore run a old new s = fireWrite run a old new (s.setCell a new) := if_neg h

section Store

variable {run : Runner} {a : Addr} {old new : Word} {s t : State}

theorem closeCommand_store_same (h : new = old) :
    closeCommand (noData (busStore run a old new s)) = s.clearActive.respond ⟨true, 0x00, 0⟩ := by
  rw [h, busStore_same]
  rfl

theorem closeCommand_store_ok (h : new ≠ old) (hf : fireWrite run a old new (s.setCell a new) = .ok () t) :
    closeCommand (noData (busStore run a old new s)) = t.clearActive.respond ⟨true, 0x00, 0⟩ := by
  rw [busStore_of_ne h, hf]
  rfl

theorem closeCommand_store_halt (h : new ≠ old) (hf : fireWrite run a old new (s.setCell a new) = .halt t) :
    closeCommand (noData (busStore run a old new s)) = t.clearActive.noResponse := by
  rw [busStore_of_ne h, hf]
  rfl

end Store

theorem wrOn_of_busOrigin {s : State} (ho : s.BusOrigin) (c : Config) (a : Addr) (v : Word) :
    wrOn c a v s = closeCommand (noData (busStore (cascade c) a (s.cell a) v s.clearActive)) :=
  command_of_busOrigin ho _

/-- Settles O24: DWR is WR (R112), and the store is that of `busStore` with the value the cell held. -/
theorem writesActOnlyOnAChange : Obligations.WritesActOnlyOnAChange := by
  intro a v s ho i hi
  have he : exec i s =
      .next (closeCommand (noData (busStore (cascade Config.current) a (s.cell a) v s.clearActive))) := by
    rw [← wrOn_of_busOrigin ho]
    simp only [List.mem_cons, List.not_mem_nil, or_false] at hi
    obtain rfl | rfl := hi <;> rfl
  rw [he]
  exact ⟨fun h => congrArg _ (closeCommand_store_same h), fun hv =>
    ⟨fun t h => congrArg _ (closeCommand_store_ok hv h), fun t h => congrArg _ (closeCommand_store_halt hv h),
      fun h => congrArg _ (closeCommand_store_ok hv (fireWrite_of_none (s := s.clearActive.setCell a v) h))⟩⟩

/-! ## Modifies (R106 to R108, R116) -/

/-- The command that combines by `f`: MAND, MOR and MXOR are three of it (R116). -/
def modifyOn (c : Config) (a : Addr) (f : Word → Word) (s : State) : State :=
  command (mayUseBus s) (fun t => noData (busModify (cascade c) a f t)) s

theorem mandOn_eq (c : Config) (a : Addr) (imm : Word) (s : State) :
    mandOn c a imm s = modifyOn c a (fun x => x &&& imm) s := rfl

theorem morOn_eq (c : Config) (a : Addr) (imm : Word) (s : State) :
    morOn c a imm s = modifyOn c a (fun x => x ||| imm) s := rfl

theorem mxorOn_eq (c : Config) (a : Addr) (imm : Word) (s : State) :
    mxorOn c a imm s = modifyOn c a (fun x => x ^^^ imm) s := rfl

section Modify

variable {a : Addr} {s t : State} {c : Config} (ho : s.BusOrigin)

include ho

theorem modifyOn_of_fire (f : Word → Word) (h : fireRead (cascade c) a (s.cell a) s.clearActive = .ok () t) :
    modifyOn c a f s = closeCommand (noData (busStore (cascade c) a (s.cell a) (f (s.cell a)) t)) := by
  rw [modifyOn, command_of_busOrigin ho, busModify, State.clearActive_cell, h, TxResult.bind_ok]

theorem modifyOn_of_halt (f : Word → Word) (h : fireRead (cascade c) a (s.cell a) s.clearActive = .halt t) :
    modifyOn c a f s = t.clearActive.noResponse := by
  rw [modifyOn, command_of_busOrigin ho, busModify, State.clearActive_cell, h]
  rfl

theorem modifyOn_of_unobserved (f : Word → Word) (hm : s.MapsWf) (hu : s.Unobserved a) :
    modifyOn c a f s = (s.clearActive.setCell a (f (s.cell a))).respond ⟨true, 0x00, 0⟩ := by
  rw [modifyOn, command_of_busOrigin ho, busModify_of_none (s := s.clearActive) hm.cells hu.1 hu.2]
  rfl

end Modify

/-- Settles O25: one function combines in each of the three commands, and what it gives is stored as WR stores. -/
theorem modifiesReadCombineAndWrite : Obligations.ModifiesReadCombineAndWrite := by
  intro a imm s ho x hx
  obtain ⟨f, he, hf⟩ : ∃ f : Word → Word, exec x.1 s = .next (modifyOn Config.current a f s) ∧ x.2 = f (s.cell a) := by
    simp only [List.mem_cons, List.not_mem_nil, or_false] at hx
    obtain rfl | rfl | rfl := hx
    · exact ⟨_, congrArg Host.Outcome.next (mandOn_eq ..), rfl⟩
    · exact ⟨_, congrArg Host.Outcome.next (morOn_eq ..), rfl⟩
    · exact ⟨_, congrArg Host.Outcome.next (mxorOn_eq ..), rfl⟩
  rw [he, hf]
  refine ⟨fun t h => ?_, fun hm hu => congrArg _ (modifyOn_of_unobserved ho f hm hu), fun c t h => ?_⟩
  · rw [modifyOn_of_fire ho f h]
    exact ⟨fun h => congrArg _ (closeCommand_store_same h), fun hv =>
      ⟨fun u h => congrArg _ (closeCommand_store_ok hv h), fun u h => congrArg _ (closeCommand_store_halt hv h)⟩⟩
  · rw [mandOn_eq, morOn_eq, mxorOn_eq]
    exact ⟨modifyOn_of_halt ho _ h, modifyOn_of_halt ho _ h, modifyOn_of_halt ho _ h⟩

/-! ## Registrations (R109, R110) -/

/-- A parameter above 3 names no port, and that is checked first (R87, R89). -/
theorem setwobsGpioInOn_of_illegal {p : Word} (h : 3 < p.toNat) (a : Addr) (s : State) :
    setwobsGpioInOn a p s = s.respond ⟨false, 0x01, 0⟩ := by
  have hp : Port.ofIndex p.toNat = none := by
    rw [← Option.not_isSome_iff_eq_none, Port.ofIndex_isSome_iff]
    omega
  simp only [setwobsGpioInOn, hp]
  rfl

section BusOrigin

variable {s : State} (ho : s.BusOrigin) (a : Addr)

include ho

theorem setrobsOn_of_busOrigin (h : Handle) (p : Word) :
    setrobsOn a h p s = (s.clearActive.setRobs a ⟨h, p⟩).respond ⟨true, 0x00, 0⟩ := command_of_busOrigin ho _

theorem setwobsExternalOn_of_busOrigin (h : Handle) (p : Word) :
    setwobsExternalOn a h p s = (s.clearActive.setWobs a (.external ⟨h, p⟩)).respond ⟨true, 0x00, 0⟩ :=
  command_of_busOrigin ho _

theorem setwobsGpioInOn_of_busOrigin {p : Word} {q : Port} (hp : p.toNat = q.index) :
    setwobsGpioInOn a p s = (s.clearActive.setWobs a (.gpioIn q)).respond ⟨true, 0x00, 0⟩ := by
  simp only [setwobsGpioInOn, hp, Port.ofIndex_index]
  exact command_of_busOrigin ho _

end BusOrigin

/-- Settles O26: a registration puts one entry into one map of slots. -/
theorem registrationReplacesOneSlot : Obligations.RegistrationReplacesOneSlot := by
  intro a h p s
  refine ⟨fun ho => ⟨_, congrArg Host.Outcome.next (setrobsOn_of_busOrigin ho a h p), ?_⟩,
    fun ho => ⟨_, congrArg Host.Outcome.next (setwobsExternalOn_of_busOrigin ho a h p), ?_⟩,
    fun q hq ho => ⟨_, congrArg Host.Outcome.next (setwobsGpioInOn_of_busOrigin ho a hq), ?_⟩,
    fun hp => congrArg Host.Outcome.next (setwobsGpioInOn_of_illegal hp a s)⟩
  · exact ⟨State.robsAt_setRobs_same .., fun b hb => State.robsAt_setRobs_other s.clearActive _ hb, rfl⟩
  · exact ⟨State.wobsAt_setWobs_same .., fun b hb => State.wobsAt_setWobs_other s.clearActive _ hb, rfl⟩
  · exact ⟨State.wobsAt_setWobs_same .., fun b hb => State.wobsAt_setWobs_other s.clearActive _ hb, rfl⟩

/-! ## The frame where no observer watches the address -/

/-- A command whose transaction goes on is answered, with the effects of the transaction or, refused, with none. -/
theorem command_of_tx_ok {P : State → Prop} {allowed : Bool} {tx : State → TxResult Word} {s t : State} {v : Word}
    (h : tx s.clearActive = .ok v t) (refused : ∀ r, P (s.respond r)) (answered : ∀ r, P (t.clearActive.respond r)) :
    P (command allowed tx s) := by
  cases allowed with
  | false => exact refused _
  | true =>
    rw [command_allowed, h]
    exact answered _

/-- Every cell, every signal and the fault are as they were. -/
def CellsKept (s t : State) : Prop := (∀ b, t.cell b = s.cell b) ∧ t.sig = s.sig ∧ t.fault = s.fault

/-- Every cell but that of `a`, every slot, every signal and the fault are as they were. -/
def OnlyCellChanged (a : Addr) (s t : State) : Prop :=
  (∀ b, b ≠ a → t.cell b = s.cell b) ∧ t.robs = s.robs ∧ t.wobs = s.wobs ∧ t.sig = s.sig ∧ t.fault = s.fault

theorem rdOn_frame {c : Config} {a : Addr} {s : State} (hr : s.robsAt a = none) :
    CellsKept s (rdOn c a s) ∧ (rdOn c a s).robs = s.robs ∧ (rdOn c a s).wobs = s.wobs :=
  command_of_tx_ok (P := fun t => CellsKept s t ∧ t.robs = s.robs ∧ t.wobs = s.wobs)
    (busRead_of_none (s := s.clearActive) hr) (fun _ => ⟨⟨fun _ => rfl, rfl, rfl⟩, rfl, rfl⟩)
    fun _ => ⟨⟨fun _ => rfl, rfl, rfl⟩, rfl, rfl⟩

theorem setrobsOn_cellsKept (a : Addr) (h : Handle) (p : Word) (s : State) : CellsKept s (setrobsOn a h p s) :=
  command_of_tx_ok (P := CellsKept s) rfl (fun _ => ⟨fun _ => rfl, rfl, rfl⟩) fun _ => ⟨fun _ => rfl, rfl, rfl⟩

theorem setwobsExternalOn_cellsKept (a : Addr) (h : Handle) (p : Word) (s : State) :
    CellsKept s (setwobsExternalOn a h p s) :=
  command_of_tx_ok (P := CellsKept s) rfl (fun _ => ⟨fun _ => rfl, rfl, rfl⟩) fun _ => ⟨fun _ => rfl, rfl, rfl⟩

theorem setwobsGpioInOn_cellsKept (a : Addr) (p : Word) (s : State) : CellsKept s (setwobsGpioInOn a p s) := by
  unfold setwobsGpioInOn
  split
  · exact command_of_tx_ok (P := CellsKept s) rfl (fun _ => ⟨fun _ => rfl, rfl, rfl⟩) fun _ => ⟨fun _ => rfl, rfl, rfl⟩
  · exact ⟨fun _ => rfl, rfl, rfl⟩

/-- A command that stores at `a` and runs no observer. -/
theorem command_store_frame {allowed : Bool} {tx : State → TxResult Unit} {a : Addr} {w : Word} {s : State}
    (h : tx s.clearActive = .ok () (s.clearActive.setCell a w)) :
    OnlyCellChanged a s (command allowed (fun t => noData (tx t)) s) :=
  command_of_tx_ok (P := OnlyCellChanged a s) (congrArg noData h) (fun _ => ⟨fun _ _ => rfl, rfl, rfl, rfl, rfl⟩)
    fun _ => ⟨fun _ => State.cell_setCell_other s w, rfl, rfl, rfl, rfl⟩

theorem wrOn_frame {c : Config} {a : Addr} {s : State} (hm : s.MapsWf) (hw : s.wobsAt a = none) (v : Word) :
    OnlyCellChanged a s (wrOn c a v s) :=
  command_store_frame (busWrite_of_none (s := s.clearActive) hm.cells hw)

theorem modifyOn_frame {c : Config} {a : Addr} {s : State} (hm : s.MapsWf) (hu : s.Unobserved a) (f : Word → Word) :
    OnlyCellChanged a s (modifyOn c a f s) :=
  command_store_frame (busModify_of_none (s := s.clearActive) hm.cells hu.1 hu.2)

/-- Settles O28, command by command: with no observer the transaction is the one effect of its command. -/
theorem unobservedAccessFrame : Obligations.UnobservedAccessFrame := by
  intro a v h s t hm hu
  refine ⟨fun i hi e => ?_, fun i hi e => ?_, fun i hi e => ?_⟩ <;>
    simp only [List.mem_cons, List.not_mem_nil, or_false] at hi
  · obtain rfl | rfl | rfl | rfl | rfl := hi <;> obtain rfl := Host.Outcome.next.inj e
    · exact (rdOn_frame hu.1).1
    · exact (rdOn_frame hu.1).1
    · exact setrobsOn_cellsKept a h v s
    · exact setwobsExternalOn_cellsKept a h v s
    · exact setwobsGpioInOn_cellsKept a v s
  · obtain rfl | rfl := hi <;> obtain rfl := Host.Outcome.next.inj e <;> exact (rdOn_frame hu.1).2
  · obtain rfl | rfl | rfl | rfl | rfl := hi <;> obtain rfl := Host.Outcome.next.inj e
    · exact wrOn_frame hm hu.2 v
    · exact wrOn_frame hm hu.2 v
    · exact modifyOn_frame hm hu fun x => x &&& v
    · exact modifyOn_frame hm hu fun x => x ||| v
    · exact modifyOn_frame hm hu fun x => x ^^^ v

end Sys2Proof.Machine
end

section
/-! What every command leaves alone under every observer (R114, R143, R190, R224), and what every step and every input
but reset keeps (R115): relations that each elementary effect is in. -/

namespace Sys2Proof.Machine

/-! ## The frame of every command -/

/-- What the command `i` leaves of the dispatch state: all of it, but for HRET the loops and for DACTICK the history. -/
def DispatchKept (i : Instr) (s t : State) : Prop :=
  t.snap = s.snap ∧ t.inbox = s.inbox ∧ t.origin = s.origin ∧ t.sched = s.sched ∧ t.draws = s.draws ∧
  ((∀ k, i ≠ .hret k) → t.loop = s.loop) ∧ (i ≠ .dactick → t.hist = s.hist ∧ t.widx = s.widx)

theorem DispatchKept.of_eq {i : Instr} {s t : State} (hsnap : t.snap = s.snap) (hinbox : t.inbox = s.inbox)
    (horigin : t.origin = s.origin) (hsched : t.sched = s.sched) (hdraws : t.draws = s.draws) (hloop : t.loop = s.loop)
    (hhist : t.hist = s.hist) (hwidx : t.widx = s.widx) : DispatchKept i s t :=
  ⟨hsnap, hinbox, horigin, hsched, hdraws, fun _ => hloop, fun _ => ⟨hhist, hwidx⟩⟩

theorem DispatchKept.trans {i : Instr} {s t u : State} (h : DispatchKept i s t) (h' : DispatchKept i t u) :
    DispatchKept i s u := by
  obtain ⟨hsnap, hinbox, horigin, hsched, hdraws, hloop, hhist⟩ := h
  obtain ⟨hsnap', hinbox', horigin', hsched', hdraws', hloop', hhist'⟩ := h'
  exact ⟨hsnap'.trans hsnap, hinbox'.trans hinbox, horigin'.trans horigin, hsched'.trans hsched, hdraws'.trans hdraws,
    fun hi => (hloop' hi).trans (hloop hi),
    fun hi => ⟨(hhist' hi).1.trans (hhist hi).1, (hhist' hi).2.trans (hhist hi).2⟩⟩

theorem dispatchKept_kept (i : Instr) : CommandKept (DispatchKept i) where
  refl _ := .of_eq rfl rfl rfl rfl rfl rfl rfl rfl
  trans _ _ _ := .trans
  setCell _ _ _ := .of_eq rfl rfl rfl rfl rfl rfl rfl rfl
  setRobs _ _ _ := .of_eq rfl rfl rfl rfl rfl rfl rfl rfl
  setWobs _ _ _ := .of_eq rfl rfl rfl rfl rfl rfl rfl rfl
  release _ := .of_eq rfl rfl rfl rfl rfl rfl rfl rfl
  setFault _ := .of_eq rfl rfl rfl rfl rfl rfl rfl rfl
  push _ _ _ := .of_eq rfl rfl rfl rfl rfl rfl rfl rfl
  pop _ := .of_eq rfl rfl rfl rfl rfl rfl rfl rfl
  releaseAny _ _ := .of_eq rfl rfl rfl rfl rfl rfl rfl rfl
  clear _ := .of_eq rfl rfl rfl rfl rfl rfl rfl rfl
  respond _ _ := .of_eq rfl rfl rfl rfl rfl rfl rfl rfl
  silent _ := .of_eq rfl rfl rfl rfl rfl rfl rfl rfl

theorem dispatchKept_appendSample (c : Config) (s : State) (v : Sample) :
    DispatchKept .dactick s (s.appendSample c v) :=
  ⟨rfl, rfl, rfl, rfl, rfl, fun _ => rfl, fun hi => absurd rfl hi⟩

theorem dispatchKept_leaveHook (k : Byte) (s : State) (src : Source) : DispatchKept (.hret k) s (leaveHook src s) :=
  ⟨rfl, rfl, rfl, rfl, rfl, fun hi => absurd rfl (hi k), fun _ => ⟨rfl, rfl⟩⟩

/-- Settles O29: the effects that a cascade is made of touch no dispatch state, and the two that do belong to one
command each. -/
theorem commandsLeaveDispatchStateAlone : Obligations.CommandsLeaveDispatchStateAlone := by
  intro i s t e
  refine exec_keeps (dispatchKept_kept i) i ?_ ?_ e
  · rintro rfl
    exact dispatchKept_appendSample Config.current
  · rintro k rfl
    exact dispatchKept_leaveHook k

/-! ## Registered slots (R115) -/

/-- The slots of `a` that hold an observer hold one afterwards. -/
def SlotsStay (a : Addr) (s t : State) : Prop :=
  (s.robsAt a ≠ none → t.robsAt a ≠ none) ∧ (s.wobsAt a ≠ none → t.wobsAt a ≠ none)

/-- No entry of a map is lost by an entry put into it. -/
theorem assocGet_put_ne_none {β : Type} {m : List (Addr × β)} {a : Addr} (b : Addr) (v : β) (h : assocGet m a ≠ none) :
    assocGet (assocPut m b v) a ≠ none := fun e => h (assocGet_eq_none_of_put e).2

theorem slotsStay_dispatchSource (a : Addr) (c : Config) (g : Group) (k : Source) (s : State) :
    SlotsStay a s (dispatchSource c g k s) := by
  simp only [dispatchSource]
  split <;> exact ⟨id, id⟩

/-- No effect of a step removes an entry from a map of slots. -/
theorem slotsStay_kept (a : Addr) : StepKept (SlotsStay a) where
  refl _ := ⟨id, id⟩
  trans _ _ _ h h' := ⟨h'.1 ∘ h.1, h'.2 ∘ h.2⟩
  setCell _ _ _ := ⟨id, id⟩
  setRobs _ b x := ⟨assocGet_put_ne_none b x, id⟩
  setWobs _ b o := ⟨id, assocGet_put_ne_none b o⟩
  release _ := ⟨id, id⟩
  setFault _ := ⟨id, id⟩
  push _ _ _ := ⟨id, id⟩
  pop _ := ⟨id, id⟩
  releaseAny _ _ := ⟨id, id⟩
  clear _ := ⟨id, id⟩
  respond _ _ := ⟨id, id⟩
  silent _ := ⟨id, id⟩
  append _ _ := ⟨id, id⟩
  leave _ _ := ⟨id, id⟩
  take _ _ := ⟨id, id⟩
  snapshot _ _ _ := ⟨id, id⟩
  toScan _ _ := ⟨id, id⟩
  toWait _ _ := ⟨id, id⟩
  dispatch s k := slotsStay_dispatchSource a _ _ k s
  drawn _ := ⟨id, id⟩
  accept _ _ _ := ⟨id, id⟩

/-- Settles O30: a registration replaces an entry, and nothing else writes a slot. -/
theorem observersStayRegistered : Obligations.ObserversStayRegistered := by
  rintro s t a (e | ⟨x, hx, rfl⟩)
  · exact step_keeps (slotsStay_kept a) e
  · exact input_keeps (R := SlotsStay a) (slotsStay_kept a).refl (slotsStay_kept a).trans (fun _ _ => ⟨id, id⟩)
      (fun _ _ _ => ⟨id, id⟩) hx s

end Sys2Proof.Machine
end

section
/-! The nested commands of an observer (R103, R113): the address each one names, the check against `ACTIVE`, and its
effect. -/

namespace Sys2Proof.Machine

/-! ## The address of a nested command -/

/-- The address a bus operation accesses or registers at; the other operations name none (R103). -/
def busAddr : Instr → Option Addr
  | .rd a => some a
  | .wr a _ => some a
  | .mand a _ => some a
  | .mor a _ => some a
  | .mxor a _ => some a
  | .setrobs a _ _ => some a
  | .setwobsGpioIn a _ => some a
  | .setwobsExternal a _ _ => some a
  | .drd a => some a
  | .dwr a _ => some a
  | .rtctick => none
  | .dactick => none
  | .uartrx _ => none
  | .assertSource _ => none
  | .hret _ => none

theorem eq_of_decodePlain {c : Command} {i j : Instr} (h : decodePlain c j = .ok i) : i = j := by
  unfold decodePlain at h
  split at h
  · exact (Except.ok.inj h).symm
  · cases h

theorem eq_of_decodeSource {c : Command} {i j : Instr} (h : decodeSource c j = .ok i) : i = j := by
  unfold decodeSource at h
  split at h
  · exact (Except.ok.inj h).symm
  · cases h

theorem busAddr_of_decodeSetRobs {c : Command} {i : Instr} (h : decodeSetRobs c = .ok i) : busAddr i = some c.addr := by
  unfold decodeSetRobs at h
  split at h
  · obtain rfl := Except.ok.inj h
    rfl
  · cases h

theorem busAddr_of_decodeSetWobs {c : Command} {i : Instr} (h : decodeSetWobs c = .ok i) : busAddr i = some c.addr := by
  unfold decodeSetWobs at h
  split at h
  · split at h
    · obtain rfl := Except.ok.inj h
      rfl
    · cases h
  · split at h
    · obtain rfl := Except.ok.inj h
      rfl
    · cases h

/-- What a command decodes to names the address of the command if `OP` is at most 0x8, and else none. -/
theorem busAddr_of_decode {c : Command} {i : Instr} (hd : decode c = .ok i) :
    busAddr i = if c.op.toNat ≤ 8 then some c.addr else none := by
  obtain ⟨h, hr, -⟩ := (exists_decode_iff c).1 ⟨i, hd⟩
  rw [decode_of_rsv_eq h hr] at hd
  unfold decodeOp at hd
  split at hd
  case h_15 => cases hd
  all_goals
    rename_i ho
    rw [ho]
  case h_6 => exact busAddr_of_decodeSetRobs hd
  case h_7 => exact busAddr_of_decodeSetWobs hd
  case h_13 | h_14 => rw [eq_of_decodeSource hd]; rfl
  all_goals rw [eq_of_decodePlain hd]; rfl

/-! ## The check against `ACTIVE` (R103) -/

section Nested

variable {run : Runner} {cmd : Command} {s : State}

theorem nested_of_active (ho : cmd.op.toNat ≤ 8) (ha : s.isActive cmd.addr = true) :
    nested run cmd s = raiseFault s := if_pos (by simp [namesAddress, ho, ha])

/-- A command that passes the check runs if it decodes. -/
theorem nested_of_ok (h : cmd.op.toNat ≤ 8 → s.isActive cmd.addr = false) {i : Instr} (hd : decode cmd = .ok i) :
    nested run cmd s = nestedEffect run i s := by
  rw [nested, if_neg (by simpa [namesAddress] using h)]
  simp only [hd]

/-- A command that passes the check is skipped if it does not decode (R212). -/
theorem nested_of_error (h : cmd.op.toNat ≤ 8 → s.isActive cmd.addr = false) {e : DecodeError}
    (hd : decode cmd = .error e) : nested run cmd s = .ok () s := by
  rw [nested, if_neg (by simpa [namesAddress] using h)]
  simp only [hd]

theorem nested_of_decode {i : Instr} {a : Addr} (hd : decode cmd = .ok i) (hi : busAddr i = some a)
    (ha : s.isActive a = false) : nested run cmd s = nestedEffect run i s := by
  refine nested_of_ok (fun ho => ?_) hd
  rw [busAddr_of_decode hd, if_pos ho] at hi
  rwa [Option.some.inj hi]

/-- An operation that names no address is none an observer may issue (R85, R113). -/
theorem nestedEffect_of_no_addr {i : Instr} (hi : busAddr i = none) : nestedEffect run i s = .ok () s := by
  cases i with
  | rtctick | dactick | uartrx | assertSource | hret => rfl
  | _ => cases hi

/-- A command that is no legal bus operation is skipped (R113, R212). -/
theorem nested_skipped (h : 8 < cmd.op.toNat ∨ (s.isActive cmd.addr = false ∧ ∃ e, decode cmd = .error e)) :
    nested run cmd s = .ok () s := by
  have hc : cmd.op.toNat ≤ 8 → s.isActive cmd.addr = false :=
    fun ho => h.elim (fun h => absurd ho (Nat.not_le.2 h)) And.left
  cases hd : decode cmd with
  | error e => exact nested_of_error hc hd
  | ok i =>
    rw [nested_of_ok hc hd]
    have ho : 8 < cmd.op.toNat := h.resolve_right fun ⟨_, e, he⟩ => by cases hd.symm.trans he
    exact nestedEffect_of_no_addr ((busAddr_of_decode hd).trans (if_neg (Nat.not_le.2 ho)))

end Nested

/-- Settles O31: each of the three checks comes before everything else. -/
theorem nestedAccessToAnActiveAddressFaults : Obligations.NestedAccessToAnActiveAddressFaults := by
  intro run cmd a k c s
  exact ⟨nested_of_active, fun ha => if_pos ha, fun ha => if_pos ha⟩

end Sys2Proof.Machine
end

section
/-! Observer cascades (R103): a run is balanced, the depth the model allows never ends one, and an external observer
runs its commands in list order. -/

namespace Sys2Proof.Machine

/-- Settles O33: `cascade_settles`, read in each outcome of the run. -/
theorem observerRunIsBalanced : Obligations.ObserverRunIsBalanced := by
  intro c a o ev s
  have h := cascade_settles c a o ev s
  cases hr : cascade c a o ev s with
  | ok v t =>
    rw [hr] at h
    exact .inl ⟨t, rfl, h⟩
  | halt t =>
    rw [hr] at h
    exact .inr ⟨t, rfl, h⟩

/-! ## Runners that agree from one stack -/

theorem TxResult.bind_congr {α β : Type} {r r' : TxResult α} {f g : α → State → TxResult β} (h : r = r')
    (hfg : ∀ v t, r = .ok v t → f v t = g v t) : r.bind f = r'.bind g := by
  subst h
  cases r with
  | ok v t => exact hfg v t rfl
  | halt t => rfl

/-- A piece that settles and went on has left the stack as it was. -/
theorem TxResult.Settled.active_eq {α : Type} {s t : State} {r : TxResult α} {v : α} (h : r.Settled s)
    (e : r = .ok v t) : t.active = s.active := by
  subst e
  exact h.1

/-- From the stack `l`, the runners do the same at every address that is not on it. -/
def RunnersAgree (l : List (Addr × Dir)) (run run' : Runner) : Prop :=
  ∀ a o ev s, s.active = l → s.isActive a = false → run a o ev s = run' a o ev s

theorem State.isActive_congr {s t : State} (h : t.active = s.active) (a : Addr) : t.isActive a = s.isActive a := by
  rw [State.isActive, h, State.isActive]

section Agree

variable {l : List (Addr × Dir)} {run run' : Runner} (h : RunnersAgree l run run')

include h

section

variable {s : State} (hs : s.active = l) {a : Addr} (ha : s.isActive a = false)

include hs ha

theorem fireRead_agree (v : Word) : fireRead run a v s = fireRead run' a v s := by
  unfold fireRead
  split
  · exact h _ _ _ _ hs ha
  · rfl

theorem fireWrite_agree (old new : Word) : fireWrite run a old new s = fireWrite run' a old new s := by
  unfold fireWrite
  split
  · exact h _ _ _ _ hs ha
  · rfl

theorem busRead_agree : busRead run a s = busRead run' a s := by
  rw [busRead, fireRead_agree h hs ha, busRead]

theorem busStore_agree (old new : Word) : busStore run a old new s = busStore run' a old new s := by
  unfold busStore
  split
  · rfl
  · exact fireWrite_agree h (s := s.setCell a new) hs ha old new

end

variable (hr : RunnerSettles run)

include hr

theorem busModify_agree {s : State} (hs : s.active = l) {a : Addr} (ha : s.isActive a = false) (f : Word → Word) :
    busModify run a f s = busModify run' a f s :=
  TxResult.bind_congr (fireRead_agree h hs ha _) fun _ _ e =>
    have ht := (fireRead_settled hr a _ s).active_eq e
    busStore_agree h (ht.trans hs) ((State.isActive_congr ht a).trans ha) _ _

theorem assertTx_agree (c : Config) (k : Source) {s : State} (hs : s.active = l) :
    assertTx c run k s = assertTx c run' k s := by
  unfold assertTx
  split
  · rfl
  · next ha => rw [busModify_agree h hr hs (Bool.eq_false_of_not_eq_true ha)]

omit hr in
theorem nestedRead_agree (a : Addr) {s : State} (hs : s.active = l) : nestedRead run a s = nestedRead run' a s := by
  unfold nestedRead
  split
  · rfl
  · next ha => exact busRead_agree h hs (Bool.eq_false_of_not_eq_true ha)

theorem gpioInProducer_agree (c : Config) (p : Port) (old new : Word) {s : State} (hs : s.active = l) :
    gpioInProducer c run p old new s = gpioInProducer c run' p old new s :=
  TxResult.bind_congr (nestedRead_agree h _ hs) fun en t e => by
    rw [assertTx_agree h hr c p.source (((nestedRead_settled hr _ s).active_eq e).trans hs)]

theorem nestedEffect_agree {i : Instr} {s : State} (hs : s.active = l)
    (ha : ∀ a, busAddr i = some a → s.isActive a = false) : nestedEffect run i s = nestedEffect run' i s := by
  cases i with
  | rd a | drd a => exact TxResult.bind_congr (busRead_agree h hs (ha a rfl)) fun _ _ _ => rfl
  | wr a v | dwr a v => exact busStore_agree h hs (ha a rfl) _ v
  | mand a imm => exact busModify_agree h hr hs (ha a rfl) fun x => x &&& imm
  | mor a imm => exact busModify_agree h hr hs (ha a rfl) fun x => x ||| imm
  | mxor a imm => exact busModify_agree h hr hs (ha a rfl) fun x => x ^^^ imm
  | _ => rfl

theorem nested_agree (cmd : Command) {s : State} (hs : s.active = l) : nested run cmd s = nested run' cmd s := by
  by_cases ha : cmd.op.toNat ≤ 8 → s.isActive cmd.addr = false
  · cases hd : decode cmd with
    | error e => rw [nested_of_error ha hd, nested_of_error ha hd]
    | ok i =>
      rw [nested_of_ok ha hd, nested_of_ok ha hd]
      refine nestedEffect_agree h hr hs fun a hi => ?_
      rw [busAddr_of_decode hd] at hi
      split at hi
      · next ho => exact Option.some.inj hi ▸ ha ho
      · cases hi
  · obtain ⟨ho, ha⟩ := Classical.not_imp.1 ha
    rw [nested_of_active ho (Bool.eq_true_of_not_eq_false ha), nested_of_active ho (Bool.eq_true_of_not_eq_false ha)]

theorem nestedAll_agree (cmds : List Command) {s : State} (hs : s.active = l) :
    nestedAll run cmds s = nestedAll run' cmds s := by
  induction cmds generalizing s with
  | nil => rfl
  | cons cmd cmds ih =>
    exact TxResult.bind_congr (nested_agree h hr cmd hs) fun _ t e =>
      ih (((nested_settled hr cmd s).active_eq e).trans hs)

theorem observerBody_agree (c : Config) (o : Observer) (ev : Event) {s : State} (hs : s.active = l) :
    observerBody c run o ev s = observerBody c run' o ev s := by
  cases o with
  | gpioIn p =>
    cases ev with
    | read v => rfl
    | write old new => exact gpioInProducer_agree h hr c p old new hs
  | external x => exact nestedAll_agree h hr _ hs

end Agree

/-! ## The depth of a cascade -/

theorem State.isActive_eq_false {s : State} {a : Addr} : s.isActive a = false ↔ a ∉ s.active.map Prod.fst := by
  simp only [State.isActive, List.any_eq_false, beq_iff_eq, List.mem_map, not_exists, not_and]

/-- A stack of different addresses has no more entries than there are addresses. -/
theorem length_le_cascadeDepth {l : List Addr} (h : l.Nodup) : l.length ≤ cascadeDepth := by
  have hl := (h.map fun _ _ => BitVec.toFin_inj.1).length_le_card
  rwa [List.length_map, Fintype.card_fin] at hl

theorem runObserver_succ (c : Config) (n : Nat) (a : Addr) (o : Observer) (ev : Event) (s : State) :
    runObserver c (n + 1) a o ev s =
      (observerBody c (runObserver c n) o ev (s.pushActive a ev.dir)).bind fun _ t => .ok () t.popActive := rfl

/-- The addresses stay pairwise different when a new one is pushed. -/
theorem nodup_push {l : List (Addr × Dir)} (hl : (l.map Prod.fst).Nodup) {s : State} (hs : s.active = l) {a : Addr}
    (ha : s.isActive a = false) : (a :: l.map Prod.fst).Nodup := by
  rw [State.isActive_eq_false, hs] at ha
  exact List.nodup_cons.2 ⟨ha, hl⟩

/-- At most as many observers are pushed as addresses are free, so any two depths that allow so many agree. -/
theorem runObserver_agree (c : Config) {n m : Nat} {l : List (Addr × Dir)} (hl : (l.map Prod.fst).Nodup)
    (hn : cascadeDepth ≤ n + l.length) (hm : cascadeDepth ≤ m + l.length) :
    RunnersAgree l (runObserver c n) (runObserver c m) := by
  induction n generalizing m l with
  | zero =>
    intro a o ev s hs ha
    have hlen := length_le_cascadeDepth (nodup_push hl hs ha)
    rw [List.length_cons, List.length_map] at hlen
    omega
  | succ n ih =>
    intro a o ev s hs ha
    have hp := nodup_push hl hs ha
    have hlen := length_le_cascadeDepth hp
    rw [List.length_cons, List.length_map] at hlen
    obtain ⟨m, rfl⟩ : ∃ k, m = k + 1 := Nat.exists_eq_succ_of_ne_zero (by omega)
    have hagree := ih (m := m) (l := (a, ev.dir) :: l) hp (by rw [List.length_cons]; omega)
      (by rw [List.length_cons]; omega)
    have hs' : (s.pushActive a ev.dir).active = (a, ev.dir) :: l := congrArg _ hs
    rw [runObserver_succ, runObserver_succ, observerBody_agree hagree (runObserver_settles c n) c o ev hs']

/-- Settles O32: both depths allow as many observers as there are addresses. -/
theorem cascadeDepthNeverBinds : Obligations.CascadeDepthNeverBinds := by
  intro c n a o ev s hn hd ha
  exact runObserver_agree c hd (Nat.le_add_right_of_le hn) (Nat.le_add_right ..) a o ev s rfl ha

/-! ## An external observer (R113) -/

/-- One observer deeper, the depth is that of `cascade` again, and depth does not bind. -/
theorem cascade_external (c : Config) {a : Addr} (x : External) (ev : Event) {s : State}
    (hd : (s.active.map Prod.fst).Nodup) (ha : s.isActive a = false) :
    cascade c a (.external x) ev s =
      (nestedAll (cascade c) (c.extObs x.handle x.param ev.dir ev s.cell) (s.pushActive a ev.dir)).bind
        fun _ t => .ok () t.popActive :=
  (cascadeDepthNeverBinds c (cascadeDepth + 1) a (.external x) ev s (Nat.le_succ _) hd ha).symm

/-- The list has run to its end: the address of the observer is on top of the stack again, and is popped. -/
theorem cascade_external_of_ok (c : Config) {a : Addr} (x : External) (ev : Event) {s t : State}
    (hd : (s.active.map Prod.fst).Nodup) (ha : s.isActive a = false)
    (h : nestedAll (cascade c) (c.extObs x.handle x.param ev.dir ev s.cell) (s.pushActive a ev.dir) = .ok () t) :
    cascade c a (.external x) ev s = .ok () { t with active := s.active } := by
  have ht : t.active = (a, ev.dir) :: s.active :=
    (nestedAll_settled (cascade_settles c) _ (s.pushActive a ev.dir)).active_eq h
  rw [cascade_external c x ev hd ha, h, TxResult.bind_ok, State.popActive, ht]
  rfl

/-- A fault that stops the list stops the observer (R214). -/
theorem cascade_external_of_halt (c : Config) {a : Addr} (x : External) (ev : Event) {s t : State}
    (hd : (s.active.map Prod.fst).Nodup) (ha : s.isActive a = false)
    (h : nestedAll (cascade c) (c.extObs x.handle x.param ev.dir ev s.cell) (s.pushActive a ev.dir) = .halt t) :
    cascade c a (.external x) ev s = .halt t := by
  rw [cascade_external c x ev hd ha, h, TxResult.bind_halt]

section List

variable {run : Runner} {cmd : Command} {s t : State} (l : List Command)

theorem nestedAll_cons_of_ok (h : nested run cmd s = .ok () t) : nestedAll run (cmd :: l) s = nestedAll run l t := by
  rw [nestedAll, h, TxResult.bind_ok]

theorem nestedAll_cons_of_halt (h : nested run cmd s = .halt t) : nestedAll run (cmd :: l) s = .halt t := by
  rw [nestedAll, h, TxResult.bind_halt]

end List

/-- A nested read discards its answer: what is left is the read observer's run (R104, R113). -/
theorem busRead_discard (run : Runner) (a : Addr) (s : State) :
    ((busRead run a s).bind fun _ t => .ok () t) = fireRead run a (s.cell a) s := by
  rw [busRead]
  cases fireRead run a (s.cell a) s <;> rfl

theorem nestedEffect_setwobsGpioIn {v : Word} {p : Port} (h : v.toNat = p.index) (run : Runner) (a : Addr) (s : State) :
    nestedEffect run (.setwobsGpioIn a v) s = .ok () (s.setWobs a (.gpioIn p)) := by
  simp only [nestedEffect, h, Port.ofIndex_index]
  rfl

/-- Settles O59: `cascade_external` for the run of the list, `nested_of_decode` for the effect of each command, which is
that of its bus operation by definition. -/
theorem externalObserverRunsItsCommands : Obligations.ExternalObserverRunsItsCommands := by
  refine ⟨fun c a x ev s hd ha => ⟨fun t => cascade_external_of_ok c x ev hd ha,
    fun t => cascade_external_of_halt c x ev hd ha⟩, fun run cmd l s => ⟨rfl, fun t => nestedAll_cons_of_ok l,
    fun t => nestedAll_cons_of_halt l, fun h => nestedAll_cons_of_ok l (nested_skipped h), fun a v h ha => ⟨?_, ?_⟩⟩⟩
  · intro x hx hd
    simp only [List.mem_cons, List.not_mem_nil, or_false] at hx
    obtain rfl | rfl | rfl | rfl | rfl | rfl | rfl | rfl | rfl := hx <;> rw [nested_of_decode hd rfl ha]
    case inl | inr.inl => exact busRead_discard run a s
    all_goals rfl
  · intro p hp hd
    rw [nested_of_decode hd rfl ha, nestedEffect_setwobsGpioIn hp]

end Sys2Proof.Machine
end

section
/-! The interrupt sources (R142 to R149): ASSERT, the producers with no observer at the registers they touch but the
GPIO producer at its own, and what an acknowledge or another bus write of `PEND` leaves alone. -/

namespace Sys2Proof.Machine

/-! ## Named registers and the origin of a producer's command -/

/-- A store at a named register leaves every other named register alone (R37). -/
theorem State.reg_setCell_of_ne (c : Config) (s : State) {r r' : RegName} (h : r' ≠ r) (v : Word) :
    (s.setCell (c.addr r) v).reg c r' = s.reg c r' :=
  State.cell_setCell_other s v (mt c.addr_injective h)

/-- The command comes from the one port it may come from, and its transaction goes on to the end (R85, R100). -/
theorem command_of_origin {o : Origin} {tx : State → TxResult Unit} {s t : State} (ho : s.origin = o)
    (h : tx s.clearActive = .ok () t) :
    command (s.origin == o) (fun u => noData (tx u)) s = t.clearActive.respond ⟨true, 0x00, 0⟩ := by
  rw [ho, beq_self_eq_true, command_allowed, h]
  rfl

/-- The same with `ACTIVE` empty at the end already. -/
theorem command_of_origin_idle {o : Origin} {tx : State → TxResult Unit} {s t : State} (ho : s.origin = o)
    (h : tx s.clearActive = .ok () t) (ht : t.active = []) :
    command (s.origin == o) (fun u => noData (tx u)) s = t.respond ⟨true, 0x00, 0⟩ := by
  rw [command_of_origin ho h, State.clearActive_of_empty ht]

/-! ## ASSERT (R142) -/

/-- One up, saturating (R38). -/
theorem toNat_sigUp (n : Word) : (sigUp n).toNat = min (n.toNat + 1) (2 ^ 32 - 1) := by
  by_cases h : n = BitVec.allOnes 32
  · subst h
    decide
  · have hn : n.toNat ≠ 2 ^ 32 - 1 := fun e => h (BitVec.eq_of_toNat_eq e)
    rw [sigUp, if_neg h]
    bv_omega

theorem assertOn_of_source {k : Byte} {src : Source} (hk : Source.ofAux k = some src) (c : Config) (s : State) :
    assertOn c k s = command (s.origin == .int) (fun t => noData (assertTx c (cascade c) src t)) s := by
  simp only [assertOn, hk]

/-- With nothing active the check cannot fail: the modify, and the release after it. -/
theorem assertTx_of_modify_ok {c : Config} {run : Runner} {k : Source} {s t : State}
    (ha : s.isActive (c.addr .pend) = false)
    (h : busModify run (c.addr .pend) (fun x => x ||| k.bit) s = .ok () t) :
    assertTx c run k s = .ok () (t.releaseSignal k.group) := by
  rw [assertTx, ha, h]
  rfl

/-- Settles O34: the transaction is a modify of `PEND`, observed or not, and the release of the signal. -/
theorem assertSetsTheBitAndReleasesTheSignal : Obligations.AssertSetsTheBitAndReleasesTheSignal := by
  intro k s
  have hassert : ∀ {src}, Source.ofAux k = some src → s.origin = .int → ∀ {t},
      busModify (cascade Config.current) (Config.current.addr .pend) (fun x => x ||| bit k.toNat) s.clearActive
        = .ok () t →
      exec (.assertSource k) s = .next ((t.releaseSignal src.group).clearActive.respond ⟨true, 0x00, 0⟩) := by
    intro src hk ho t h
    rw [← Source.ofAux_some hk, ← Source.bit_eq] at h
    exact congrArg Host.Outcome.next
      ((assertOn_of_source hk ..).trans (command_of_origin ho (assertTx_of_modify_ok rfl h)))
  refine ⟨fun hk => ?_, fun src hk ho hm hu => ?_, fun src hk ho t h => hassert hk ho h⟩
  · simp only [exec, execAssert, assertOn, hk]
    rfl
  · refine ⟨_, hassert hk ho (busModify_of_none (s := s.clearActive) hm.cells hu.1 hu.2), ?_, fun b hb => ?_, ?_,
      fun g hg => ?_, rfl⟩
    · exact State.cell_setCell_same (s := s.clearActive) hm.cells _ _
    · exact State.cell_setCell_other s.clearActive _ hb
    · exact (congrArg BitVec.toNat (PerGroup.get_set_same ..)).trans (toNat_sigUp _)
    · exact PerGroup.get_set_other _ _ hg

/-! ## The GPIO producer (R145) -/

/-- The input producer of a port as the outermost observer: its body runs with its own address active (R103). -/
theorem cascade_gpioIn (c : Config) (a : Addr) (p : Port) (old new : Word) {s : State} (hs : s.active = []) :
    cascade c a (.gpioIn p) (.write old new) s =
      (gpioInProducer c (cascade c) p old new (s.pushActive a .write)).bind fun _ t => .ok () t.popActive := by
  have hd : (s.active.map Prod.fst).Nodup := by simp [hs]
  have ha : s.isActive a = false := by simp [State.isActive, hs]
  exact (cascadeDepthNeverBinds c (cascadeDepth + 1) a (.gpioIn p) (.write old new) s (Nat.le_succ _) hd ha).symm

/-- The address of another register is not the one an outermost observer has made active (R37, R103). -/
theorem State.isActive_pushActive_of_ne (c : Config) {s : State} (hs : s.active = []) {r r' : RegName} (h : r ≠ r')
    (d : Dir) : (s.pushActive (c.addr r) d).isActive (c.addr r') = false := by
  simp [State.isActive, hs, h]

section GpioProducer

variable {c : Config} {p : Port} {old new : Word} {s : State} (hs : s.active = [])
  (hr : s.robsAt (c.addr (.gpioInt p)) = none)

include hs hr

/-- With no read observer at the enables, the producer compares them with the edges (R145). -/
theorem gpioInProducer_of_none (run : Runner) :
    gpioInProducer c run p old new (s.pushActive (c.addr (.gpioIn p)) .write) =
      if gpioEdges c.edgePolicy old new &&& s.reg c (.gpioInt p) ≠ 0
      then assertTx c run p.source (s.pushActive (c.addr (.gpioIn p)) .write)
      else .ok () (s.pushActive (c.addr (.gpioIn p)) .write) := by
  have hi := State.isActive_pushActive_of_ne c hs (r := .gpioIn p) (r' := .gpioInt p) nofun .write
  rw [gpioInProducer, nestedRead, hi, if_neg Bool.false_ne_true,
    busRead_of_none (s := s.pushActive (c.addr (.gpioIn p)) .write) hr, TxResult.bind_ok]
  rfl

theorem cascade_gpioIn_of_no_edge (h : gpioEdges c.edgePolicy old new &&& s.reg c (.gpioInt p) = 0) :
    cascade c (c.addr (.gpioIn p)) (.gpioIn p) (.write old new) s = .ok () s := by
  rw [cascade_gpioIn c _ p old new hs, gpioInProducer_of_none hs hr, if_neg (not_not.2 h)]
  rfl

theorem cascade_gpioIn_of_edge (h : gpioEdges c.edgePolicy old new &&& s.reg c (.gpioInt p) ≠ 0) (hm : s.cells.wf)
    (hu : s.Unobserved (c.addr .pend)) :
    cascade c (c.addr (.gpioIn p)) (.gpioIn p) (.write old new) s =
      .ok () ((s.setCell (c.addr .pend) (s.reg c .pend ||| bit p.index)).releaseSignal .gpio) := by
  have hi := State.isActive_pushActive_of_ne c hs (r := .gpioIn p) (r' := .pend) nofun .write
  rw [cascade_gpioIn c _ p old new hs, gpioInProducer_of_none hs hr, if_pos h,
    assertTx_of_none (s := s.pushActive (c.addr (.gpioIn p)) .write) hm hi hu.1 hu.2, Source.bit_eq, Port.source_index,
    Port.source_group]
  rfl

end GpioProducer

theorem fireWrite_of_some {run : Runner} {a : Addr} {old new : Word} {s : State} {o : Observer}
    (h : s.wobsAt a = some o) : fireWrite run a old new s = run a o (.write old new) s := by
  simp only [fireWrite, h]

/-- Settles O35: the changing store fires the producer, which meets the enables and `PEND` as they were. -/
theorem injectionAssertsOnAnEnabledEdge : Obligations.InjectionAssertsOnAnEnabledEdge := by
  intro p v s ho hm hw hr hu hv i hi stored edges
  obtain ⟨hstore, -⟩ := (writesActOnlyOnAChange _ v s ho i hi).2 hv
  have hfire : ∀ {t}, cascade Config.current (Config.current.addr (.gpioIn p)) (.gpioIn p)
      (.write (s.reg Config.current (.gpioIn p)) v) stored = .ok () t →
      exec i s = .next (t.clearActive.respond ⟨true, 0x00, 0⟩) := by
    intro t h
    exact hstore t ((fireWrite_of_some (s := stored) hw).trans h)
  have hint : stored.reg Config.current (.gpioInt p) = s.reg Config.current (.gpioInt p) := by
    simp [stored, State.reg_setCell_of_ne]
  have hpend : stored.reg Config.current .pend = s.reg Config.current .pend := by
    simp [stored, State.reg_setCell_of_ne]
  rw [← hint, ← hpend]
  exact ⟨fun h => hfire (cascade_gpioIn_of_no_edge rfl hr h),
    fun h => hfire (cascade_gpioIn_of_edge rfl hr h (Memory.wf_write hm.cells _ _) hu)⟩

/-! ## The producers that are commands (R147 to R149) -/

section Commands

variable {s t : State}

theorem exec_rtctick_of_ok (ho : s.origin = .clk)
    (h : rtctickTx Config.current (cascade Config.current) s.clearActive = .ok () t) (ht : t.active = []) :
    exec .rtctick s = .next (t.respond ⟨true, 0x00, 0⟩) :=
  congrArg Host.Outcome.next (command_of_origin_idle ho h ht)

theorem exec_dactick_of_ok (ho : s.origin = .clk)
    (h : dactickTx Config.current (cascade Config.current) s.clearActive = .ok () t) (ht : t.active = []) :
    exec .dactick s = .next (t.respond ⟨true, 0x00, 0⟩) :=
  congrArg Host.Outcome.next (command_of_origin_idle ho h ht)

theorem exec_uartrx_of_ok {b : Byte} (ho : s.origin = .uartb)
    (h : uartrxTx Config.current (cascade Config.current) b s.clearActive = .ok () t) (ht : t.active = []) :
    exec (.uartrx b) s = .next (t.respond ⟨true, 0x00, 0⟩) :=
  congrArg Host.Outcome.next (command_of_origin_idle ho h ht)

end Commands

theorem busRead_reg_of_none (c : Config) {run : Runner} {r : RegName} {s : State} (h : s.robsAt (c.addr r) = none) :
    busRead run (c.addr r) s = .ok (s.reg c r) s := busRead_of_none h

/-- Assert at the end of a producer's transaction that has stored in no `PEND` before. -/
theorem assertTx_of_pend_kept {c : Config} {run : Runner} {s t : State} (k : Source) (hm : t.cells.wf)
    (ha : t.active = []) (hu : t.Unobserved (c.addr .pend)) (hp : t.reg c .pend = s.reg c .pend) :
    assertTx c run k t = .ok () ((t.setCell (c.addr .pend) (s.reg c .pend ||| k.bit)).releaseSignal k.group) := by
  rw [← hp]
  exact assertTx_of_none hm (by simp [State.isActive, ha]) hu.1 hu.2

section Rtc

variable {c : Config} {run : Runner} {s : State} (hctrl : s.robsAt (c.addr .rtcCtrl) = none)

include hctrl

theorem rtctickTx_of_stopped (h : ctrlEnabled (s.reg c .rtcCtrl) = false) : rtctickTx c run s = .ok () s := by
  rw [rtctickTx, busRead_reg_of_none c hctrl, TxResult.bind_ok, h]
  rfl

/-- Running, with no observer at the registers: `CNT` goes up and the new count is compared (R147). -/
theorem rtctickTx_of_running (h : ctrlEnabled (s.reg c .rtcCtrl) = true) (hm : s.cells.wf)
    (hcnt : s.Unobserved (c.addr .rtcCnt)) (hcmp : s.robsAt (c.addr .rtcCmp) = none) :
    let counted := s.setCell (c.addr .rtcCnt) (s.reg c .rtcCnt + 1)
    rtctickTx c run s =
      if ctrlIrqEnabled (s.reg c .rtcCtrl) = true ∧ s.reg c .rtcCnt + 1 = s.reg c .rtcCmp
      then assertTx c run .rtc counted else .ok () counted := by
  intro counted
  have hcompare : counted.reg c .rtcCmp = s.reg c .rtcCmp := by simp [counted, State.reg_setCell_of_ne]
  rw [rtctickTx, busRead_reg_of_none c hctrl, TxResult.bind_ok, if_pos h, busRead_reg_of_none c hcnt.1,
    TxResult.bind_ok, busWrite_of_none hm hcnt.2, TxResult.bind_ok, busRead_reg_of_none c (s := counted) hcmp,
    TxResult.bind_ok, hcompare, ite_and]

end Rtc

/-- Settles O36: stopped, running without a match, running with one. -/
theorem rtcTickCountsAndCompares : Obligations.RtcTickCountsAndCompares := by
  intro s ho hm hctrl hcnt hcmp hu ctrl next counted
  have hrun := fun h =>
    rtctickTx_of_running (run := cascade Config.current) (s := s.clearActive) hctrl h hm.cells hcnt hcmp
  refine ⟨fun h => exec_rtctick_of_ok ho (rtctickTx_of_stopped hctrl h) rfl, fun h hn => ?_, fun h hi he => ?_⟩
  · have hno : ¬ (ctrlIrqEnabled ctrl = true ∧ next = s.reg Config.current .rtcCmp) := by
      rintro ⟨hi, he⟩
      exact hn.elim (fun hi' => Bool.false_ne_true (hi'.symm.trans hi)) (absurd he)
    exact exec_rtctick_of_ok ho ((hrun h).trans (if_neg hno)) rfl
  · have hpend : counted.reg Config.current .pend = s.reg Config.current .pend := by
      simp [counted, State.reg_setCell_of_ne]
    exact exec_rtctick_of_ok ho (((hrun h).trans (if_pos ⟨hi, he⟩)).trans
      (assertTx_of_pend_kept .rtc (Memory.wf_write hm.cells _ _) rfl hu hpend)) rfl

section Dac

variable {c : Config} {run : Runner} {s : State} (hctrl : s.robsAt (c.addr .dacCtrl) = none)

include hctrl

theorem dactickTx_of_disabled (h : ctrlEnabled (s.reg c .dacCtrl) = false) : dactickTx c run s = .ok () s := by
  rw [dactickTx, busRead_reg_of_none c hctrl, TxResult.bind_ok, h]
  rfl

/-- Enabled, with no observer at the registers: the sample is appended (R148). -/
theorem dactickTx_of_enabled (h : ctrlEnabled (s.reg c .dacCtrl) = true) (hdata : s.robsAt (c.addr .dacData) = none) :
    let appended := s.appendSample c (dacSample (s.reg c .dacData))
    dactickTx c run s =
      if ctrlIrqEnabled (s.reg c .dacCtrl) = true then assertTx c run .dac appended else .ok () appended := by
  rw [dactickTx, busRead_reg_of_none c hctrl, TxResult.bind_ok, if_pos h, busRead_reg_of_none c hdata, TxResult.bind_ok]

end Dac

/-- Settles O37: disabled, enabled without the interrupt, enabled with it. -/
theorem dacTickAppendsAndAsserts : Obligations.DacTickAppendsAndAsserts := by
  intro s ho hm hctrl hdata hu ctrl appended
  have hrun := fun h =>
    dactickTx_of_enabled (run := cascade Config.current) (s := s.clearActive) hctrl h hdata
  refine ⟨fun h => exec_dactick_of_ok ho (dactickTx_of_disabled hctrl h) rfl, fun h hi => ?_, fun h hi => ?_⟩
  · exact exec_dactick_of_ok ho ((hrun h).trans (if_neg (Bool.eq_false_iff.1 hi))) rfl
  · exact exec_dactick_of_ok ho (((hrun h).trans (if_pos hi)).trans
      (assertTx_of_pend_kept (t := appended) .dac hm.cells rfl hu rfl)) rfl

/-- With no observer at the registers: both stores, then the enables are read (R149). -/
theorem uartrxTx_of_none {c : Config} {run : Runner} {b : Byte} {s : State} (hm : s.cells.wf)
    (hrx : s.wobsAt (c.addr .uartRxData) = none) (hst : s.wobsAt (c.addr .uartStatus) = none)
    (hctrl : s.robsAt (c.addr .uartCtrl) = none) :
    let received := s.setCell (c.addr .uartRxData) (uartByteWord b)
    let delivered := received.setCell (c.addr .uartStatus) (c.uartStatusOnRx (s.reg c .uartStatus))
    uartrxTx c run b s =
      if (ctrlEnabled (s.reg c .uartCtrl) && ctrlIrqEnabled (s.reg c .uartCtrl)) = true
      then assertTx c run .uart delivered else .ok () delivered := by
  intro received delivered
  have hstatus : received.reg c .uartStatus = s.reg c .uartStatus := by
    simp [received, State.reg_setCell_of_ne]
  have henables : delivered.reg c .uartCtrl = s.reg c .uartCtrl := by
    simp [delivered, received, State.reg_setCell_of_ne]
  rw [uartrxTx, busWrite_of_none hm hrx, TxResult.bind_ok, hstatus,
    busWrite_of_none (s := received) (Memory.wf_write hm _ _) hst, TxResult.bind_ok,
    busRead_reg_of_none c (s := delivered) hctrl, TxResult.bind_ok, henables]

/-- Settles O38: the byte is delivered in every case, and both enables together assert. -/
theorem uartRxDeliversTheByte : Obligations.UartRxDeliversTheByte := by
  intro b s ho hm hrx hst hctrl hu ctrl delivered
  have hrun := uartrxTx_of_none (c := Config.current) (run := cascade Config.current) (b := b) (s := s.clearActive)
    hm.cells hrx hst hctrl
  refine ⟨fun h => ?_, fun h hi => ?_⟩
  · have hno : ¬ (ctrlEnabled ctrl && ctrlIrqEnabled ctrl) = true := by
      rwa [Bool.not_eq_true, Bool.and_eq_false_iff]
    exact exec_uartrx_of_ok ho (hrun.trans (if_neg hno)) rfl
  · have hyes : (ctrlEnabled ctrl && ctrlIrqEnabled ctrl) = true := Bool.and_eq_true_iff.2 ⟨h, hi⟩
    have hpend : delivered.reg Config.current .pend = s.reg Config.current .pend := by
      simp [delivered, State.reg_setCell_of_ne]
    exact exec_uartrx_of_ok ho ((hrun.trans (if_pos hyes)).trans
      (assertTx_of_pend_kept .uart (Memory.wf_write (Memory.wf_write hm.cells _ _) _ _) rfl hu hpend)) rfl

/-! ## Writes of `PEND` (R143, R144) -/

/-- The mask of an acknowledge clears one bit. -/
theorem getLsbD_and_not_bit (w : Word) (k : Source) (j : Nat) :
    (w &&& ~~~ k.bit).getLsbD j = (w.getLsbD j && decide (j ≠ k.index)) := by
  by_cases hj : j < 32
  · rw [BitVec.getLsbD_and, BitVec.getLsbD_not, Source.bit_eq, getLsbD_bit k.index_lt, decide_not]
    simp [hj]
  · simp [BitVec.getLsbD_of_ge w j (Nat.le_of_not_lt hj)]

/-- Settles O39: an acknowledge is a MAND (R143), and MAND stores in one cell. -/
theorem acknowledgeClearsOneBit : Obligations.AcknowledgeClearsOneBit := by
  intro k s ho hm hu
  refine ⟨_, congrArg Host.Outcome.next
    ((mandOn_eq ..).trans (modifyOn_of_unobserved ho (fun x => x &&& ~~~ k.bit) hm hu)),
    fun j => ?_, fun b hb => ?_, rfl⟩
  · exact (congrArg (BitVec.getLsbD · j) (State.cell_setCell_same (s := s.clearActive) hm.cells _ _)).trans
      (getLsbD_and_not_bit _ k j)
  · exact State.cell_setCell_other s.clearActive _ hb

theorem wake_mem_enabledTurns {s : State} {g : Group} : .wake g ∈ enabledTurns s ↔ wakeEnabled s g = true := by
  have hg : g ∈ Group.all := by cases g <;> decide
  by_cases hf : s.fault = none <;> simp [enabledTurns, wakeEnabled, hf, hg]

theorem scan_mem_enabledTurns {s : State} {g : Group} : .scan g ∈ enabledTurns s ↔ scanEnabled s g = true := by
  have hg : g ∈ Group.all := by cases g <;> decide
  by_cases hf : s.fault = none <;> simp [enabledTurns, scanEnabled, hf, hg]

/-- A wake depends on the loop, the signal and the fault of the state only (R219). -/
theorem wakeEnabled_congr {s t : State} (hs : t.sig = s.sig) (hl : t.loop = s.loop) (hf : t.fault = s.fault)
    (g : Group) : wakeEnabled t g = wakeEnabled s g := by
  simp only [wakeEnabled, State.loopOf, State.sigOf, hs, hl, hf]

/-- A scan depends on the loop and the fault only (R221). -/
theorem scanEnabled_congr {s t : State} (hl : t.loop = s.loop) (hf : t.fault = s.fault) (g : Group) :
    scanEnabled t g = scanEnabled s g := by
  simp only [scanEnabled, State.loopOf, hl, hf]

/-- Settles O40: no command but HRET touches a loop, a store that runs no observer touches no signal and no fault, and a
wake and a scan depend on nothing else. -/
theorem busWriteOfPendWakesNothing : Obligations.BusWriteOfPendWakesNothing := by
  intro v s t hm hu i hi e
  obtain ⟨-, -, hframe⟩ := unobservedAccessFrame _ v 0 s t hm hu
  obtain ⟨-, -, -, hsig, hfault⟩ := hframe i hi e
  obtain ⟨hsnap, -, -, -, -, hkept, -⟩ := commandsLeaveDispatchStateAlone i s t e
  have hloop : t.loop = s.loop := hkept fun k hret => by simp [hret] at hi
  refine ⟨hsig, hloop, hsnap, fun g => ⟨?_, ?_⟩⟩
  · rw [wake_mem_enabledTurns, wake_mem_enabledTurns, wakeEnabled_congr hsig hloop hfault]
  · rw [scan_mem_enabledTurns, scan_mem_enabledTurns, scanEnabled_congr hloop hfault]

end Sys2Proof.Machine
end

section
/-! The façades (R181 to R189): which selectors are valid, what the one command of a pin operation does to its register,
and the values of the getters; and the history that DACTICK appends to (R190). -/

namespace Sys2Proof.Machine

/-! ## Selectors (R181) -/

theorem facadeSelector_of_valid (p : Port) {pin : Int} (h : 0 ≤ pin ∧ pin ≤ 31) :
    facadeSelector p.index pin = some (p, pin.toNat) := by
  rw [facadeSelector, Port.ofIndex_index]
  exact if_pos h

theorem facadeSelector_of_invalid {port : Nat} {pin : Int} (h : ¬ (port < 4 ∧ 0 ≤ pin ∧ pin ≤ 31)) :
    facadeSelector port pin = none := by
  unfold facadeSelector
  split
  next p hp =>
    have hport : port ≤ 3 := (Port.ofIndex_isSome_iff port).1 (by rw [hp, Option.isSome_some])
    exact if_neg fun hpin => h ⟨by omega, hpin⟩
  next => rfl

theorem facadePinCommand_of_valid (p : Port) {pin : Int} (h : 0 ≤ pin ∧ pin ≤ 31) (f : Port → Nat → Instr) :
    facadePinCommand p.index pin f = .ok [f p pin.toNat] := by
  rw [facadePinCommand, facadeSelector_of_valid p h]

theorem facadePinCommand_of_invalid {port : Nat} {pin : Int} (h : ¬ (port < 4 ∧ 0 ≤ pin ∧ pin ≤ 31))
    (f : Port → Nat → Instr) : facadePinCommand port pin f = .error 0x03 := by
  rw [facadePinCommand, facadeSelector_of_invalid h]
  rfl

/-- Settles O54: all six operations validate in `facadePinCommand`, whatever command they then issue. -/
theorem facadeSelectorsAreValidated : Obligations.FacadeSelectorsAreValidated := by
  intro port pin d op hop
  obtain ⟨f, hf⟩ : ∃ f, facadeCommands Config.current op = facadePinCommand port pin f := by
    simp only [List.mem_cons, List.not_mem_nil, or_false] at hop
    obtain rfl | rfl | rfl | rfl | rfl | rfl := hop
    · cases d <;> exact ⟨_, rfl⟩
    all_goals exact ⟨_, rfl⟩
  rw [hf]
  refine ⟨fun ⟨hport, hpin⟩ => ?_, fun h => facadePinCommand_of_invalid h f⟩
  obtain ⟨p, hp⟩ := Option.isSome_iff_exists.1 ((Port.ofIndex_isSome_iff port).2 (Nat.le_of_lt_succ hport))
  rw [Port.ofIndex_eq_some.1 hp]
  exact ⟨_, facadePinCommand_of_valid p hpin f⟩

/-! ## Modifies of one bit (R106 to R108, R182 to R187) -/

theorem getLsbD_and_not_bit_of_lt (w : Word) {n j : Nat} (hn : n < 32) (hj : j < 32) :
    (w &&& ~~~ bit n).getLsbD j = if j = n then false else w.getLsbD j := by
  rw [BitVec.getLsbD_and, BitVec.getLsbD_not, getLsbD_bit hn]
  by_cases h : j = n <;> simp [h, hj]

theorem getLsbD_or_bit (w : Word) {n : Nat} (hn : n < 32) (j : Nat) :
    (w ||| bit n).getLsbD j = if j = n then true else w.getLsbD j := by
  by_cases h : j = n <;> simp [getLsbD_bit hn, h]

theorem getLsbD_xor_bit (w : Word) {n : Nat} (hn : n < 32) (j : Nat) :
    (w ^^^ bit n).getLsbD j = if j = n then !w.getLsbD j else w.getLsbD j := by
  by_cases h : j = n <;> simp [getLsbD_bit hn, h]

/-- The command is a modify of the cell at `a` (R116) that replaces bit n by what `g` makes of it and keeps the others. -/
def ModifiesBit (i : Instr) (a : Addr) (n : Nat) (g : Bool → Bool) : Prop :=
  ∃ f : Word → Word, (∀ s, exec i s = .next (modifyOn Config.current a f s)) ∧
    ∀ w j, j < 32 → (f w).getLsbD j = if j = n then g (w.getLsbD j) else w.getLsbD j

theorem mand_not_bit_modifiesBit (a : Addr) {n : Nat} (hn : n < 32) :
    ModifiesBit (.mand a (~~~ bit n)) a n fun _ => false :=
  ⟨_, fun s => congrArg Host.Outcome.next (mandOn_eq _ a _ s), fun w _ => getLsbD_and_not_bit_of_lt w hn⟩

theorem mor_bit_modifiesBit (a : Addr) {n : Nat} (hn : n < 32) : ModifiesBit (.mor a (bit n)) a n fun _ => true :=
  ⟨_, fun s => congrArg Host.Outcome.next (morOn_eq _ a _ s), fun w j _ => getLsbD_or_bit w hn j⟩

theorem mxor_bit_modifiesBit (a : Addr) {n : Nat} (hn : n < 32) : ModifiesBit (.mxor a (bit n)) a n fun b => !b :=
  ⟨_, fun s => congrArg Host.Outcome.next (mxorOn_eq _ a _ s), fun w j _ => getLsbD_xor_bit w hn j⟩

/-- With no observer at its address, such a command changes that bit and answers. -/
theorem exec_of_modifiesBit {i : Instr} {a : Addr} {n : Nat} {g : Bool → Bool} {s : State} (hi : ModifiesBit i a n g)
    (ho : s.BusOrigin) (hm : s.MapsWf) (hu : s.Unobserved a) :
    ∃ t, exec i s = .next t ∧
      (∀ j, j < 32 → (t.cell a).getLsbD j = if j = n then g ((s.cell a).getLsbD j) else (s.cell a).getLsbD j) ∧
      (∀ b, b ≠ a → t.cell b = s.cell b) ∧
      t = { s with cells := t.cells, active := [], resp := some (s.origin, ⟨true, 0x00, 0⟩) } := by
  obtain ⟨f, he, hf⟩ := hi
  refine ⟨_, (he s).trans (congrArg _ (modifyOn_of_unobserved ho f hm hu)), fun j hj => ?_,
    fun b hb => State.cell_setCell_other s.clearActive _ hb, rfl⟩
  rw [State.respond_cell, State.cell_setCell_same (s := s.clearActive) hm.cells]
  exact hf _ j hj

/-- Settles O55: the façade picks the command, and the command changes one bit. -/
theorem pinOperationsChangeOneBit : Obligations.PinOperationsChangeOneBit := by
  intro p n s hn ho hm x hx hu
  have hlt : n < 32 := Nat.lt_succ_of_le hn
  have hcmd := facadePinCommand_of_valid p (pin := n) (by omega)
  obtain ⟨i, hi, hbit⟩ : ∃ i, facadeCommands Config.current x.1 = .ok [i] ∧
      ModifiesBit i (Config.current.addr x.2.1) n x.2.2 := by
    simp only [List.mem_cons, List.not_mem_nil, or_false] at hx
    obtain rfl | rfl | rfl | rfl | rfl | rfl | rfl := hx
    · exact ⟨_, hcmd _, mor_bit_modifiesBit _ hlt⟩
    · exact ⟨_, hcmd _, mand_not_bit_modifiesBit _ hlt⟩
    · exact ⟨_, hcmd _, mor_bit_modifiesBit _ hlt⟩
    · exact ⟨_, hcmd _, mand_not_bit_modifiesBit _ hlt⟩
    · exact ⟨_, hcmd _, mxor_bit_modifiesBit _ hlt⟩
    · exact ⟨_, hcmd _, mor_bit_modifiesBit _ hlt⟩
    · exact ⟨_, hcmd _, mand_not_bit_modifiesBit _ hlt⟩
  obtain ⟨t, he, heffect⟩ := exec_of_modifiesBit hbit ho hm hu
  exact ⟨i, t, hi, he, heffect⟩

/-! ## Two modifies in a row (R184, R185) -/

/-- On a canonical memory, a store over a store at the same address leaves the later one. -/
theorem Memory.write_write {m : Memory} (hm : m.wf) (a : Addr) (v w : Word) :
    (m.write a v).write a w = m.write a w := by
  have hv := Memory.wf_write hm a v
  refine Memory.ext_read (Memory.wf_write hv a w) (Memory.wf_write hm a w) fun b => ?_
  by_cases hb : b = a
  · rw [hb, Memory.read_write_same hv, Memory.read_write_same hm]
  · simp only [Memory.read_write_other _ _ hb]

/-- Two unobserved modifies give back the cells if the second undoes the first on the value the cell holds. -/
theorem modifyOn_modifyOn_cells {c : Config} {a : Addr} {f g : Word → Word} {s : State} (ho : s.BusOrigin)
    (hm : s.MapsWf) (hu : s.Unobserved a) (hfg : g (f (s.cell a)) = s.cell a) :
    (modifyOn c a g (modifyOn c a f s)).cells = s.cells := by
  have hmid : ((s.clearActive.setCell a (f (s.cell a))).respond ⟨true, 0x00, 0⟩).MapsWf :=
    ⟨Memory.wf_write hm.cells a _, hm.robs, hm.wobs⟩
  rw [modifyOn_of_unobserved ho f hm hu, modifyOn_of_unobserved (by exact ho) g hmid hu, State.respond_cell,
    State.cell_setCell_same (s := s.clearActive) hm.cells, hfg]
  calc (s.cells.write a (f (s.cell a))).write a (s.cell a)
      = s.cells.write a (s.cell a) := Memory.write_write hm.cells a _ _
    _ = s.cells := congrArg State.cells (State.setCell_self hm.cells a)

theorem xor_bit_xor_bit (w : Word) (n : Nat) : (w ^^^ bit n) ^^^ bit n = w := by
  rw [BitVec.xor_assoc, BitVec.xor_self, BitVec.xor_zero]

theorem or_bit_and_not_bit {w : Word} {n : Nat} (hn : n < 32) (hw : w.getLsbD n = false) :
    (w ||| bit n) &&& ~~~ bit n = w := by
  refine BitVec.eq_of_getLsbD_eq fun j hj => ?_
  rw [getLsbD_and_not_bit_of_lt _ hn hj, getLsbD_or_bit _ hn]
  by_cases h : j = n
  · rw [if_pos h, h, hw]
  · rw [if_neg h, if_neg h]

/-- Settles O56: each pair of commands is a pair of modifies, and the second undoes the first. -/
theorem toggleTwiceAndSetClearRestore : Obligations.ToggleTwiceAndSetClearRestore := by
  intro p n s hn ho hm hu
  refine ⟨⟨_, _, rfl, rfl, ?_⟩, fun hbit => ⟨_, _, rfl, rfl, ?_⟩⟩
  · rw [mxorOn_eq, mxorOn_eq]
    exact modifyOn_modifyOn_cells ho hm hu (xor_bit_xor_bit _ n)
  · rw [mandOn_eq, morOn_eq]
    exact modifyOn_modifyOn_cells ho hm hu (or_bit_and_not_bit (Nat.lt_succ_of_le hn) hbit)

/-! ## The timer getters (R188, R189) -/

/-- Natural division by 0 is 0, so the two zero tests of R188 are no cases of the quotient. -/
theorem timerFreq_eq (ctrl top : Word) :
    timerFreq ctrl top = 16000000 / ((timerPrescaler ctrl).toNat * top.toNat) := by
  rw [timerFreq]
  split
  next h => rcases h with h | h <;> simp [h]
  next => exact Nat.div_div_eq_div_mul ..

theorem pwmDuty_eq (cmp top : Word) : pwmDuty cmp top = 100 * cmp.toNat / top.toNat := by
  rw [pwmDuty]
  split
  next h => rw [h, Nat.div_zero]
  next => rfl

/-- Settles O57: each value is one floored quotient, and the two reads are those `facadeCommands` lists. -/
theorem timerGettersCompute : Obligations.TimerGettersCompute :=
  fun a b => ⟨timerFreq_eq a b, pwmDuty_eq a b, rfl, rfl, rfl, rfl⟩

/-! ## The DAC history (R190) -/

/-- The positions from any start are different within one round. -/
theorem add_mod_ne_of_lt {w i j m : Nat} (hij : i < j) (hj : j < m) : (w + j) % m ≠ (w + i) % m := fun h =>
  hij.ne' (Nat.ModEq.eq_of_lt_of_lt (Nat.ModEq.add_left_cancel' w h) hj (hij.trans hj))

section History

variable (c : Config) (s : State)

theorem hist_length_appendSamples (xs : List Sample) :
    (xs.foldl (fun t x => t.appendSample c x) s).hist.length = s.hist.length := by
  induction xs using List.reverseRecOn with
  | nil => rfl
  | append_singleton xs x ih => rw [List.foldl_concat, State.appendSample_hist, List.length_set, ih]

theorem widx_appendSamples (hw : s.widx < c.dacHistLen) (xs : List Sample) :
    (xs.foldl (fun t x => t.appendSample c x) s).widx = (s.widx + xs.length) % c.dacHistLen := by
  induction xs using List.reverseRecOn with
  | nil => exact (Nat.mod_eq_of_lt hw).symm
  | append_singleton xs x ih =>
    rw [List.foldl_concat, State.appendSample_widx, ih, Nat.mod_add_mod, List.length_append, List.length_singleton,
      Nat.add_assoc]

/-- Up to one round of appends, the samples stand in order from where `WIDX` was: each append writes behind those
before it and on none of them. -/
theorem hist_getElem?_appendSamples (hl : s.hist.length = c.dacHistLen) (hw : s.widx < c.dacHistLen)
    (xs : List Sample) (hx : xs.length ≤ c.dacHistLen) {i : Nat} (hi : i < xs.length) :
    (xs.foldl (fun t x => t.appendSample c x) s).hist[(s.widx + i) % c.dacHistLen]? = xs[i]? := by
  induction xs using List.reverseRecOn with
  | nil => nomatch hi
  | append_singleton xs x ih =>
    rw [List.length_append, List.length_singleton] at hx hi
    rw [List.foldl_concat, State.appendSample_hist, widx_appendSamples c s hw]
    obtain h | h := Nat.lt_or_eq_of_le (Nat.le_of_lt_succ hi)
    · rw [List.getElem?_set_ne (add_mod_ne_of_lt h hx), List.getElem?_append_left h]
      exact ih (Nat.le_of_lt hx) h
    · have hpos : (s.widx + xs.length) % c.dacHistLen < (xs.foldl (fun t x => t.appendSample c x) s).hist.length := by
        rw [hist_length_appendSamples, hl]
        exact Nat.mod_lt _ c.dacHistLen_pos
      rw [h, List.getElem?_set_self hpos, List.getElem?_concat_length]

end History

/-- Settles O58: a full round of appends is the case in which `WIDX` has gone on by the whole length. -/
theorem dacHistoryIsCircular : Obligations.DacHistoryIsCircular := by
  refine ⟨fun _ _ _ => rfl, fun c s xs hl hw hx => ⟨?_, fun i hi => ?_⟩⟩
  · rw [widx_appendSamples c s hw, hx, Nat.add_mod_right, Nat.mod_eq_of_lt hw]
  · exact hist_getElem?_appendSamples c s hl hw xs hx.le (hx ▸ hi)

end Sys2Proof.Machine
end

section
/-! The arbiter (R230): which steps are enabled, that a step grants exactly one of them, and the queues it takes its
commands from (R276). -/

namespace Sys2Proof.Machine

/-! ## Which steps are enabled (R219, R221, R230) -/

/-- R214: no step of a faulted machine. -/
theorem enabledTurns_of_fault {s : State} (h : s.fault ≠ none) : enabledTurns s = [] := if_neg h

theorem fault_of_mem_enabledTurns {s : State} {t : Turn} (h : t ∈ enabledTurns s) : s.fault = none := by
  by_contra hf
  rw [enabledTurns_of_fault hf] at h
  nomatch h

theorem admits_iff {s : State} {o : Origin} : s.admits o = true ↔ ∀ g, o = .hook g → ∃ k, s.loopOf g = .call k := by
  rw [← Bool.not_eq_false, admits_eq_false]
  push Not
  rfl

theorem request_mem_enabledTurns_iff {s : State} {o : Origin} :
    .request o ∈ enabledTurns s ↔ s.fault = none ∧ o ∈ requesters s.inbox ∧ s.admits o = true := by
  refine ⟨fun h => ?_, fun ⟨hf, ho, ha⟩ => request_mem_enabledTurns hf ho ha⟩
  have hf := fault_of_mem_enabledTurns h
  simpa [enabledTurns, hf] using h

theorem wakeEnabled_iff {s : State} {g : Group} :
    wakeEnabled s g = true ↔ s.loopOf g = .wait ∧ s.sigOf g ≠ 0 ∧ s.fault = none := by
  simp [wakeEnabled, and_assoc]

theorem scanEnabled_iff {s : State} {g : Group} : scanEnabled s g = true ↔ s.loopOf g = .scan ∧ s.fault = none := by
  simp [scanEnabled]

/-- Settles O16: one membership lemma for each kind of step. -/
theorem enabledTurns_iff : Obligations.EnabledTurns := by
  intro s
  refine ⟨fun o => ?_, fun g => ?_, fun g => ?_⟩
  · rw [request_mem_enabledTurns_iff, mem_requesters, admits_iff]
  · rw [wake_mem_enabledTurns, wakeEnabled_iff]
    tauto
  · rw [scan_mem_enabledTurns, scanEnabled_iff, and_comm]

/-! ## A step is one grant (R230) -/

/-- Settles O12: the grant is of the chosen step. -/
theorem stepRunsTheChosenLoop : Obligations.StepRunsTheChosenLoop :=
  fun _ _ hf => ⟨step_of_choose hf, step_of_choose hf⟩

/-- Settles O13: there is one code a fault can have (R42). -/
theorem faultedMachineTakesNoStep : Obligations.FaultedMachineTakesNoStep := by
  intro s h
  refine ⟨enabledTurns_of_fault h, ?_⟩
  obtain ⟨⟨⟩, hf⟩ := Option.ne_none_iff_exists'.1 h
  simp only [step, arbiterStep, hf]

theorem step_of_no_choice {s : State} (hf : s.fault = none) (hc : chooseTurn Config.current s = none) :
    step s = .next s := by
  simp only [step, arbiterStep, hf, hc]

/-- Settles O14: the arbiter makes no choice exactly if no step is enabled. -/
theorem stepTakesOneEnabledTurn : Obligations.StepTakesOneEnabledTurn := by
  intro s hf
  cases hc : chooseTurn Config.current s with
  | none => exact .inl ⟨chooseTurn_eq_none.1 hc, step_of_no_choice hf hc⟩
  | some t => exact .inr ⟨t, chooseTurn_mem hc, step_of_choose hf hc⟩

/-- Settles O15: what is enabled does not depend on the advance choice. -/
theorem everyEnabledTurnCanBeTaken : Obligations.EveryEnabledTurnCanBeTaken := by
  intro s t l ht
  have hc : chooseTurn Config.current { s with sched := t :: l } = some t := chooseTurn_of_sched rfl ht
  exact step_of_choose (fault_of_mem_enabledTurns ht) hc

/-! ## The queues (R230, R276) -/

theorem takeHead_cons_of_ne {o : Origin} {r : Request} (h : r.origin ≠ o) (l : List Request) :
    takeHead o (r :: l) = (takeHead o l).map fun x => (x.1, r :: x.2) := by
  rw [takeHead, if_neg h]
  cases takeHead o l <;> rfl

theorem takeHead_eq_none {o : Origin} {l : List Request} : takeHead o l = none ↔ ∀ r ∈ l, r.origin ≠ o := by
  induction l with
  | nil => simp [takeHead]
  | cons r l ih =>
    by_cases h : r.origin = o
    · simp [takeHead, h]
    · rw [takeHead_cons_of_ne h, Option.map_eq_none_iff, ih, List.forall_mem_cons]
      exact (and_iff_right h).symm

/-- The oldest command of a requester is behind commands of others only. -/
theorem takeHead_append {o : Origin} {older : List Request} (h : ∀ r ∈ older, r.origin ≠ o) (cmd : Command)
    (newer : List Request) : takeHead o (older ++ ⟨o, cmd⟩ :: newer) = some (cmd, older ++ newer) := by
  induction older with
  | nil => exact takeHead_cons o cmd newer
  | cons r older ih =>
    obtain ⟨hr, h⟩ := List.forall_mem_cons.1 h
    rw [List.cons_append, takeHead_cons_of_ne hr, ih h]
    rfl

/-- The port takes commands into its queue: it is admitted, or the block is faulted (R213, R214). -/
def State.Queues (s : State) (o : Origin) : Prop := s.fault ≠ none ∨ s.admits o = true

theorem present_of_queues {s : State} {o : Origin} (h : s.Queues o) (cmd : Command) :
    s.present o cmd = s.enqueue o cmd :=
  if_neg fun ⟨hf, ha⟩ => h.elim (fun h => h hf) (fun h => Bool.eq_false_iff.1 ha h)

theorem presentAll_of_queues {o : Origin} (l : List Instr) {s : State} (h : s.Queues o) :
    s.presentAll o l = { s with inbox := s.inbox ++ l.map fun i => ⟨o, encode i⟩ } := by
  induction l generalizing s with
  | nil => simp [State.presentAll]
  | cons i l ih =>
    have h' : (s.enqueue o (encode i)).Queues o := h
    rw [State.presentAll, present_of_queues h, ih h', State.enqueue_inbox, List.append_assoc]
    rfl

/-- A port's commands are admitted but for a hook's outside a call. -/
theorem queues_of_port {s : State} {p : ExternalPort}
    (h : s.fault ≠ none ∨ ∀ g, p = .hook g → ∃ k, s.loopOf g = .call k) : s.Queues p.origin := by
  refine h.imp_right fun h => admits_iff.2 fun g hg => h g ?_
  cases p <;> cases hg
  rfl

/-- Settles O60: a head is taken from behind commands of other ports, and a command is put behind all. -/
theorem queuesAreFirstInFirstOut : Obligations.QueuesAreFirstInFirstOut := by
  refine ⟨fun o l => takeHead_eq_none, fun o older newer cmd h => takeHead_append h cmd newer, fun p s h => ?_⟩
  have hq := queues_of_port h
  refine ⟨present_of_queues hq, fun op l hl => ?_⟩
  simp only [hostInput, hl]
  exact presentAll_of_queues l hq

end Sys2Proof.Machine
end

section
/-! How a command ends (R81, R88, R100, R211, R213, R214): refused with one of three codes and nothing else changed,
answered with the fault as it was, or stopped by a fault. -/

namespace Sys2Proof.Machine

/-! ## The three ends of a command -/

/-- How the command run in `s` ends in `t`. -/
inductive CommandResult (s t : State) : Prop
  /-- A check failed (R211). -/
  | refused (code : BitVec 8) (hc : code ∈ [0x01, 0x02, 0x04]) (ht : t = s.respond (.error code))
  /-- The transaction came to its end (R100). -/
  | answered (u : State) (v : Word) (hu : u.fault = s.fault) (ht : t = u.clearActive.respond (.success v))
  /-- A fault stopped the transaction (R214). -/
  | faulted (u : State) (hu : u.fault = some .reentrant) (ht : t = u.clearActive.noResponse)

theorem illegal_result (s : State) : CommandResult s (illegal s) := .refused errIllegal (by decide) rfl

theorem noData_settled {s : State} {r : TxResult Unit} (h : r.Settled s) : (noData r).Settled s :=
  h.bind fun _ t => .ok _ t

/-- A transaction that settles is answered or has faulted. -/
theorem command_result (allowed : Bool) {tx : State → TxResult Word} (s : State)
    (h : (tx s.clearActive).Settled s.clearActive) : CommandResult s (command allowed tx s) := by
  cases allowed with
  | false => exact .refused errOrigin (by decide) rfl
  | true =>
    rw [command_allowed]
    cases hr : tx s.clearActive with
    | ok v u =>
      rw [hr] at h
      exact .answered u v h.2 rfl
    | halt u =>
      rw [hr] at h
      exact .faulted u h rfl

theorem command_noData_result (allowed : Bool) {tx : State → TxResult Unit} (s : State)
    (h : (tx s.clearActive).Settled s.clearActive) : CommandResult s (command allowed (fun t => noData (tx t)) s) :=
  command_result allowed s (noData_settled h)

/-! ## The transactions of the producers settle (R147 to R149) -/

section Producers

variable {run : Runner} (hr : RunnerSettles run) (c : Config) (s : State)

include hr

theorem rtctickTx_settled : (rtctickTx c run s).Settled s := by
  refine (busRead_settled hr _ s).bind fun ctrl s => ?_
  split
  · refine (busRead_settled hr _ s).bind fun cnt s => (busWrite_settled hr _ _ s).bind fun _ s => ?_
    split
    · refine (busRead_settled hr _ s).bind fun cmp s => ?_
      split
      · exact assertTx_settled hr c _ s
      · exact .ok _ s
    · exact .ok _ s
  · exact .ok _ s

theorem dactickTx_settled : (dactickTx c run s).Settled s := by
  refine (busRead_settled hr _ s).bind fun ctrl s => ?_
  split
  · refine (busRead_settled hr _ s).bind fun d s => ?_
    have happ : ∀ v, (assertTx c run .dac (s.appendSample c v)).Settled s :=
      fun v => assertTx_settled hr c .dac (s.appendSample c v)
    simp only
    split
    · exact happ _
    · exact ⟨rfl, rfl⟩
  · exact .ok _ s

theorem uartrxTx_settled (b : Byte) : (uartrxTx c run b s).Settled s := by
  refine (busWrite_settled hr _ _ s).bind fun _ s => (busWrite_settled hr _ _ s).bind fun _ s =>
    (busRead_settled hr _ s).bind fun ctrl s => ?_
  split
  · exact assertTx_settled hr c _ s
  · exact .ok _ s

end Producers

/-! ## Every command ends so -/

theorem exec_hret_of_call {k : Byte} {src : Source} {s : State} (hk : Source.ofAux k = some src)
    (ho : s.origin = .hook src.group) (hl : s.loopOf src.group = .call src) :
    exec (.hret k) s = .next ((leaveHook src s).clearActive.respond (.success 0)) := by
  simp only [exec, execHret, hretOn, hk, if_pos ho, if_pos hl]
  rfl

theorem exec_hret_of_no_source {k : Byte} (hk : Source.ofAux k = none) (s : State) :
    exec (.hret k) s = .next (s.respond ⟨false, 0x01, 0⟩) := by
  simp only [exec, execHret, hretOn, hk]
  rfl

theorem exec_hret_of_origin {k : Byte} {src : Source} {s : State} (hk : Source.ofAux k = some src)
    (ho : s.origin ≠ .hook src.group) : exec (.hret k) s = .next (s.respond ⟨false, 0x02, 0⟩) := by
  simp only [exec, execHret, hretOn, hk, if_neg ho]
  rfl

/-- What HRET can do: fail with the answer alone, or end the call of its source (R88, R224). -/
theorem exec_hret_cases {k : Byte} {s t : State} (e : exec (.hret k) s = .next t) :
    (∃ code ∈ [0x01, 0x02, 0x04], t = s.respond (.error code)) ∨
    ∃ src, Source.ofAux k = some src ∧ s.origin = .hook src.group ∧ s.loopOf src.group = .call src ∧
      t = (leaveHook src s).clearActive.respond (.success 0) := by
  cases hk : Source.ofAux k with
  | none => exact .inl ⟨0x01, by decide, (Host.Outcome.next.inj ((exec_hret_of_no_source hk s).symm.trans e)).symm⟩
  | some src =>
    by_cases ho : s.origin = .hook src.group
    · by_cases hl : s.loopOf src.group = .call src
      · exact .inr ⟨src, rfl, ho, hl, (Host.Outcome.next.inj ((exec_hret_of_call hk ho hl).symm.trans e)).symm⟩
      · exact .inl ⟨0x04, by decide, (Host.Outcome.next.inj ((exec_hret_of_no_call hk ho hl).symm.trans e)).symm⟩
    · exact .inl ⟨0x02, by decide, (Host.Outcome.next.inj ((exec_hret_of_origin hk ho).symm.trans e)).symm⟩

theorem exec_result {i : Instr} {s t : State} (e : exec i s = .next t) : CommandResult s t := by
  have hr := cascade_settles Config.current
  cases i with
  | hret k =>
    obtain ⟨code, hc, rfl⟩ | ⟨src, -, -, -, rfl⟩ := exec_hret_cases e
    · exact .refused code hc rfl
    · exact .answered (leaveHook src s) 0 rfl rfl
  | setwobsGpioIn a p =>
    obtain rfl := Host.Outcome.next.inj e
    unfold setwobsGpioInOn
    split
    · exact command_noData_result _ s ⟨rfl, rfl⟩
    · exact illegal_result s
  | assertSource k =>
    obtain rfl := Host.Outcome.next.inj e
    unfold assertOn
    split
    · exact command_noData_result _ s (assertTx_settled hr _ _ _)
    · exact illegal_result s
  | rd a | drd a =>
    obtain rfl := Host.Outcome.next.inj e
    exact command_result _ s (busRead_settled hr a _)
  | wr a v | dwr a v =>
    obtain rfl := Host.Outcome.next.inj e
    exact command_noData_result _ s (busWrite_settled hr a v _)
  | mand a imm | mor a imm | mxor a imm =>
    obtain rfl := Host.Outcome.next.inj e
    exact command_noData_result _ s (busModify_settled hr a _ _)
  | setrobs a h p | setwobsExternal a h p =>
    obtain rfl := Host.Outcome.next.inj e
    exact command_noData_result _ s ⟨rfl, rfl⟩
  | rtctick =>
    obtain rfl := Host.Outcome.next.inj e
    exact command_noData_result _ s (rtctickTx_settled hr _ _)
  | dactick =>
    obtain rfl := Host.Outcome.next.inj e
    exact command_noData_result _ s (dactickTx_settled hr _ _)
  | uartrx b =>
    obtain rfl := Host.Outcome.next.inj e
    exact command_noData_result _ s (uartrxTx_settled hr _ _ b)

/-- No command is refused by the model, and none ends in the outcome fault (log 8). -/
theorem exists_exec_next (i : Instr) (s : State) : ∃ t, exec i s = .next t := by cases i <;> exact ⟨_, rfl⟩

/-- Settles O18: of the three ends only the fault answers nobody. -/
theorem everyCommandAnswersANextState : Obligations.EveryCommandAnswersANextState := by
  intro i s
  obtain ⟨t, e⟩ := exists_exec_next i s
  refine ⟨t, e, ?_⟩
  cases exec_result e with
  | refused code hc ht =>
    subst ht
    exact ⟨nofun, fun _ => rfl⟩
  | answered u v hu ht =>
    subst ht
    exact ⟨nofun, fun _ => hu⟩
  | faulted u hu ht =>
    subst ht
    exact ⟨fun _ => hu, fun h => absurd rfl h⟩

/-- Settles O21: of the three ends only a refusal answers `ok = 0`. -/
theorem failedCommandChangesNothing : Obligations.FailedCommandChangesNothing := by
  intro i s t o r e hresp hok
  cases exec_result e with
  | refused code hc ht =>
    subst ht
    obtain ⟨rfl, rfl⟩ := Prod.mk.inj (Option.some.inj hresp)
    exact ⟨rfl, hc, rfl, rfl⟩
  | answered u v hu ht =>
    subst ht
    obtain ⟨-, rfl⟩ := Prod.mk.inj (Option.some.inj hresp)
    cases hok
  | faulted u hu ht =>
    subst ht
    cases hresp

/-- Settles O22: an answer goes to the origin, which no command changes, and a fault disables every step. -/
theorem commandEndsAnsweredOrFaulted : Obligations.CommandEndsAnsweredOrFaulted := by
  intro i s hf
  obtain ⟨t, e⟩ := exists_exec_next i s
  refine ⟨t, e, ?_, (exec_ends i e).idle⟩
  obtain ⟨-, -, horigin, -⟩ := commandsLeaveDispatchStateAlone i s t e
  rw [← horigin]
  cases exec_result e with
  | refused code hc ht =>
    subst ht
    exact .inl ⟨hf, _, rfl⟩
  | answered u v hu ht =>
    subst ht
    exact .inl ⟨hu.trans hf, _, rfl⟩
  | faulted u hu ht =>
    subst ht
    exact .inr ⟨hu, rfl, enabledTurns_of_fault (hu.trans_ne nofun)⟩

/-! ## Hooks outside a call, the clock and the bridge (R213) -/

/-- From a hook that is in no call, only an HRET of the hook's own group passes the origin check (R85, R88). -/
theorem not_originAllowed_of_no_call {i : Instr} {s : State} {g : Group} (ho : s.origin = .hook g)
    (hg : ∀ k, s.loopOf g ≠ .call k) (hi : ∀ k src, i = .hret k → Source.ofAux k = some src → src.group ≠ g) :
    ¬ OriginAllowed s i := by
  have hbus : ¬ s.BusOrigin := by simp [State.BusOrigin, ho, hg]
  cases i with
  | hret k => exact fun ⟨src, hk, h⟩ => hi k src rfl hk (Origin.hook.inj (ho.symm.trans h)).symm
  | rtctick | dactick | uartrx | assertSource => exact fun h => nomatch ho.symm.trans h
  | _ => exact hbus

theorem not_originAllowed_of_clk {i : Instr} {s : State} (ho : s.origin = .clk) (hr : i ≠ .rtctick)
    (hd : i ≠ .dactick) : ¬ OriginAllowed s i := by
  have hbus : ¬ s.BusOrigin := by simp [State.BusOrigin, ho]
  cases i with
  | rtctick => exact absurd rfl hr
  | dactick => exact absurd rfl hd
  | uartrx | assertSource => exact fun h => nomatch ho.symm.trans h
  | hret k => exact fun ⟨_, _, h⟩ => nomatch ho.symm.trans h
  | _ => exact hbus

theorem not_originAllowed_of_uartb {i : Instr} {s : State} (ho : s.origin = .uartb) (hu : ∀ b, i ≠ .uartrx b) :
    ¬ OriginAllowed s i := by
  have hbus : ¬ s.BusOrigin := by simp [State.BusOrigin, ho]
  cases i with
  | uartrx b => exact absurd rfl (hu b)
  | rtctick | dactick | assertSource => exact fun h => nomatch ho.symm.trans h
  | hret k => exact fun ⟨_, _, h⟩ => nomatch ho.symm.trans h
  | _ => exact hbus

/-- A command presented at a hook's port outside a call is run there and then (log 10). -/
theorem present_outside_call {s t : State} {g : Group} {cmd : Command} (hf : s.fault = none)
    (hg : ∀ k, s.loopOf g ≠ .call k) (h : runCommand cmd { s with origin := .hook g } = .next t) :
    hostInput Config.current (.present (.hook g) cmd) s = t := by
  have hp : s.present (.hook g) cmd = s.refuse (.hook g) cmd := if_pos ⟨hf, admits_eq_false.2 ⟨g, rfl, hg⟩⟩
  exact hp.trans (by simp only [State.refuse, h])

/-- Settles O19: outside a call the origin check fails but for an HRET of the own group, whose call check fails; and
what is presented is run at once, with these answers. -/
theorem hookClockAndBridgeAreBound : Obligations.HookClockAndBridgeAreBound := by
  intro i s hw
  refine ⟨fun g hg => ⟨fun hi => ?_, fun k src hi hk hsrc => ?_, ?_⟩, fun ho hr hd => ?_, fun ho hu => ?_⟩
  · have hfail : ∀ u : State, u.origin = .hook g → (∀ k, u.loopOf g ≠ .call k) →
        exec i u = .next (u.respond ⟨false, 0x02, 0⟩) :=
      fun u ho hl => originOutsideTheRowFails i u hw (not_originAllowed_of_no_call ho hl hi)
    exact ⟨fun ho => hfail s ho hg, fun cmd hf hd =>
      present_outside_call hf hg ((runCommand_of_ok hd _).trans (hfail _ rfl hg))⟩
  · subst hi hsrc
    exact ⟨fun ho => exec_hret_of_no_call hk ho (hg src), fun cmd hf hd =>
      present_outside_call hf hg ((runCommand_of_ok hd _).trans (exec_hret_of_no_call hk rfl (hg src)))⟩
  · exact fun cmd e hf hd => present_outside_call hf hg (runCommand_of_error hd _)
  · exact originOutsideTheRowFails i s hw (not_originAllowed_of_clk ho hr hd)
  · exact originOutsideTheRowFails i s hw (not_originAllowed_of_uartb ho hu)

/-! ## Hook return (R224, R226) -/

/-- Settles O46: HRET has one outcome for each check that fails and one for none. -/
theorem hookReturnEndsTheCall : Obligations.HookReturnEndsTheCall := fun _ s =>
  ⟨fun hk => exec_hret_of_no_source hk s, fun _ hk =>
    ⟨exec_hret_of_origin hk, exec_hret_of_call hk, exec_hret_of_no_call hk⟩⟩

theorem loopOf_of_dispatching {c : Config} {s : State} {k : Source} (h : sourceState c s k = .dispatching) :
    s.loopOf k.group = .call k := by
  by_contra hl
  rw [sourceState, if_neg hl] at h
  split at h <;> cases h

/-- Outside the call of a source its bit of `PEND` decides (R40). -/
theorem sourceState_of_not_call {c : Config} {s : State} {k : Source} (h : s.loopOf k.group ≠ .call k) :
    sourceState c s k = if pendBit c s k then .pending else .idle := if_neg h

/-- Settles O47: the return leaves the call, and touches no cell. -/
theorem returnedSourceIsPendingOrIdle : Obligations.ReturnedSourceIsPendingOrIdle := by
  intro k src s t hk ho hs e
  rw [exec_hret_of_call hk ho (loopOf_of_dispatching hs)] at e
  obtain rfl := Host.Outcome.next.inj e
  have hl : ((leaveHook src s).clearActive.respond (.success 0)).loopOf src.group ≠ .call src :=
    fun h => nomatch (PerGroup.get_set_same ..).symm.trans h
  have hp : pendBit Config.current ((leaveHook src s).clearActive.respond (.success 0)) src =
      pendBit Config.current s src := rfl
  rw [sourceState_of_not_call hl, hp]
  exact ⟨fun h => if_pos h, fun h => by rw [h]; rfl⟩

end Sys2Proof.Machine
end

section
/-! The wake and the scan step of a dispatch loop (R219 to R222, R225). -/

namespace Sys2Proof.Machine

/-! ## The wake step (R219) -/

section Wake

variable {c : Config} {g : Group} {s t : State}

/-- The read observer of `PEND` has run to its end: the snapshot is the value read before, under the group's mask. -/
theorem wakeOn_of_fire
    (h : fireRead (cascade c) (c.addr .pend) (s.reg c .pend) (s.clearActive.takeSignal g) = .ok () t) :
    wakeOn c g s = ((t.setSnap g (s.reg c .pend &&& g.mask)).setLoop g .scan).clearActive := by
  have hread : busRead (cascade c) (c.addr .pend) (s.clearActive.takeSignal g) = .ok (s.reg c .pend) t :=
    TxResult.bind_eq_ok.2 ⟨(), t, h, rfl⟩
  rw [wakeOn, wakeTx, hread]
  rfl

/-- The read observer of `PEND` has faulted: nothing is done after it (R214). -/
theorem wakeOn_of_halt
    (h : fireRead (cascade c) (c.addr .pend) (s.reg c .pend) (s.clearActive.takeSignal g) = .halt t) :
    wakeOn c g s = t.clearActive := by
  have hread : busRead (cascade c) (c.addr .pend) (s.clearActive.takeSignal g) = .halt t :=
    TxResult.bind_eq_halt.2 (.inl h)
  rw [wakeOn, wakeTx, hread]
  rfl

end Wake

theorem pos_toNat_iff (n : Word) : 0 < n.toNat ↔ n ≠ 0 := by bv_omega

/-- Settles O42: with no read observer of `PEND` the read fires nothing; else its run decides. -/
theorem wakeTakesOneSnapshot : Obligations.WakeTakesOneSnapshot := by
  intro g s
  refine ⟨?_, fun hr => ?_, fun t h => congrArg Host.Outcome.next (wakeOn_of_fire h), fun c t h => wakeOn_of_halt h⟩
  · rw [pos_toNat_iff, wakeEnabled_iff]
  · exact congrArg Host.Outcome.next (wakeOn_of_fire (fireRead_of_none (s := s.clearActive.takeSignal g) hr))

/-! ## The scan step (R221) -/

theorem scanOn_of_source {c : Config} {g : Group} {s : State} {k : Source} (h : nextSource c g s = some k) :
    scanOn c g s = dispatchSource c g k s := by
  simp only [scanOn, h]

theorem scanOn_of_no_source {c : Config} {g : Group} {s : State} (h : nextSource c g s = none) :
    scanOn c g s = s.setLoop g .wait := by
  simp only [scanOn, h]

theorem dispatchSource_of_present {c : Config} {k : Source} (h : c.hookPresent k = true) (g : Group) (s : State) :
    dispatchSource c g k s = enterHook k (s.setSnap g (s.snapOf g &&& ~~~ k.bit)) := if_pos h

theorem dispatchSource_of_absent {c : Config} {k : Source} (h : c.hookPresent k = false) (g : Group) (s : State) :
    dispatchSource c g k s = s.setSnap g (s.snapOf g &&& ~~~ k.bit) := if_neg (Bool.eq_false_iff.1 h)

@[simp] theorem mem_snapSources {g : Group} {m : Word} {k : Source} :
    k ∈ snapSources g m ↔ k.group = g ∧ m.getLsbD k.index = true := by
  simp [snapSources, Group.sources, Source.mem_all, and_comm]

theorem snapSources_zero (g : Group) : snapSources g 0 = [] :=
  List.eq_nil_iff_forall_not_mem.2 fun k => by simp

/-- The bits of a mask are those of the sources of its group (R140). -/
theorem exists_source_of_mask (g : Group) : ∀ j < 32, g.mask.getLsbD j = true → ∃ k ∈ g.sources, k.index = j := by
  cases g <;> decide

theorem exists_source_of_masked {g : Group} {m : Word} (hm : m &&& ~~~ g.mask = 0) {j : Nat}
    (hj : m.getLsbD j = true) : ∃ k ∈ snapSources g m, k.index = j := by
  have hlt := BitVec.lt_of_getLsbD hj
  have hmask : g.mask.getLsbD j = true := by
    have h := congrArg (BitVec.getLsbD · j) hm
    simpa [hj, hlt] using h
  obtain ⟨k, hk, rfl⟩ := exists_source_of_mask g j hlt hmask
  exact ⟨k, List.mem_filter.2 ⟨hk, hj⟩, rfl⟩

/-- The sources are listed by ascending bits (R140). -/
theorem snapSources_ascending (g : Group) (m : Word) : (snapSources g m).Pairwise fun k k' => k.index < k'.index := by
  have h : Source.all.Pairwise fun k k' => k.index < k'.index := by decide
  exact (h.filter _).filter _

/-- In ascending order the source taken is the lowest set bit of a masked snapshot (R221). -/
theorem nextSource_lowest {c : Config} {g : Group} {s : State} {k : Source} (hc : c.dispatchOrder = .ascending)
    (hm : s.snapOf g &&& ~~~ g.mask = 0) (hk : nextSource c g s = some k) {j : Nat} (hj : j < k.index) :
    (s.snapOf g).getLsbD j = false := by
  refine Bool.eq_false_of_not_eq_true fun h => ?_
  obtain ⟨k', hk', rfl⟩ := exists_source_of_masked hm h
  simp only [nextSource, hc] at hk
  obtain ⟨l, hl⟩ := List.head?_eq_some_iff.1 hk
  have hp := snapSources_ascending g (s.snapOf g)
  rw [hl] at hp hk'
  obtain rfl | hk' := List.mem_cons.1 hk'
  · exact Nat.lt_irrefl _ hj
  · exact Nat.lt_asymm hj (List.rel_of_pairwise_cons hp hk')

/-- A masked snapshot that is not empty has a source to take. -/
theorem exists_nextSource {c : Config} {g : Group} {s : State} (hm : s.snapOf g &&& ~~~ g.mask = 0)
    (h : s.snapOf g ≠ 0) : ∃ k, nextSource c g s = some k :=
  Option.ne_none_iff_exists'.1 fun hn => h (snap_eq_zero_of_no_source hm (nextSource_eq_none.1 hn))

/-- Settles O43: `nextSource` finds a source exactly if the snapshot is not empty. -/
theorem scanDispatchesFromTheSnapshot : Obligations.ScanDispatchesFromTheSnapshot := by
  intro c g s hm
  refine ⟨scanEnabled_iff, rfl, fun h => ?_, fun h => ?_⟩
  · exact scanOn_of_no_source (nextSource_eq_none.2 (by rw [h, snapSources_zero]))
  · obtain ⟨k, hk⟩ := exists_nextSource (c := c) hm h
    obtain ⟨rfl, hbit⟩ := nextSource_mem hk
    rw [scanOn_of_source hk]
    exact ⟨k, rfl, hbit, fun hc j => nextSource_lowest hc hm hk, fun hp => dispatchSource_of_present hp _ s,
      fun hp => dispatchSource_of_absent hp _ s⟩

/-- Settles O44: `pickAt` reaches every element of the list of set bits. -/
theorem anyOrderTakesAnySetBit : Obligations.AnyOrderTakesAnySetBit := by
  intro c k s hc hbit
  obtain ⟨n, hn⟩ := exists_pickAt (mem_snapSources.2 ⟨rfl, hbit⟩)
  refine ⟨fun _ => n, scanOn_of_source ?_⟩
  simp only [nextSource, hc]
  exact hn

/-- The scan step commutes with a change of the cells: it neither reads nor writes one (R220). -/
theorem scanOn_cells (c : Config) (g : Group) (s : State) (m : Memory) :
    (scanOn c g s).cells = s.cells ∧ scanOn c g { s with cells := m } = { scanOn c g s with cells := m } := by
  have hnext : nextSource c g { s with cells := m } = nextSource c g s := rfl
  cases h : nextSource c g s with
  | none =>
    rw [scanOn_of_no_source h, scanOn_of_no_source (hnext.trans h)]
    exact ⟨rfl, rfl⟩
  | some k =>
    rw [scanOn_of_source h, scanOn_of_source (hnext.trans h)]
    cases hp : c.hookPresent k with
    | true =>
      rw [dispatchSource_of_present hp, dispatchSource_of_present hp]
      exact ⟨rfl, rfl⟩
    | false =>
      rw [dispatchSource_of_absent hp, dispatchSource_of_absent hp]
      exact ⟨rfl, rfl⟩

/-- Settles O45: `scanOn_cells`, for the block's own configuration. -/
theorem scanIgnoresTheCells : Obligations.ScanIgnoresTheCells := by
  intro g s m
  obtain ⟨hkept, hcomm⟩ := scanOn_cells Config.current g s m
  exact ⟨_, rfl, hkept, congrArg Host.Outcome.next hcomm⟩

end Sys2Proof.Machine
end

section
/-! What a step can do to one dispatch group, said once (`step_groupStep`): its signal goes down only in its wake
(R218), and its loop changes only in its wake, its scan or the return of its hook (R222, R224, R227). -/

namespace Sys2Proof.Machine

/-! ## The frame of a group -/

/-- The loop and the snapshot of `g` are as they were, and its signal is no lower. -/
structure GroupKept (g : Group) (s t : State) : Prop where
  loop : t.loopOf g = s.loopOf g
  snap : t.snapOf g = s.snapOf g
  sig : s.sigOf g ≤ t.sigOf g

theorem GroupKept.of_eq {g : Group} {s t : State} (hloop : t.loopOf g = s.loopOf g) (hsnap : t.snapOf g = s.snapOf g)
    (hsig : t.sigOf g = s.sigOf g) : GroupKept g s t := ⟨hloop, hsnap, hsig ▸ BitVec.le_refl _⟩

theorem GroupKept.trans {g : Group} {s t u : State} (h : GroupKept g s t) (h' : GroupKept g t u) : GroupKept g s u :=
  ⟨h'.loop.trans h.loop, h'.snap.trans h.snap, BitVec.le_trans h.sig h'.sig⟩

/-- A release does not lower a signal (R38). -/
theorem le_sigUp (n : Word) : n ≤ sigUp n := by
  have := n.isLt
  rw [BitVec.le_def, toNat_sigUp]
  omega

theorem groupKept_release (g : Group) (s : State) (j : Group) : GroupKept g s (s.releaseSignal j) := by
  refine ⟨rfl, rfl, ?_⟩
  rw [State.sigOf_releaseSignal]
  split
  next h => exact h ▸ le_sigUp _
  next => exact BitVec.le_refl _

theorem groupKept_kept (g : Group) : CommandKept (GroupKept g) where
  refl _ := .of_eq rfl rfl rfl
  trans _ _ _ := .trans
  setCell _ _ _ := .of_eq rfl rfl rfl
  setRobs _ _ _ := .of_eq rfl rfl rfl
  setWobs _ _ _ := .of_eq rfl rfl rfl
  release s := groupKept_release g s .gpio
  setFault _ := .of_eq rfl rfl rfl
  push _ _ _ := .of_eq rfl rfl rfl
  pop _ := .of_eq rfl rfl rfl
  releaseAny := groupKept_release g
  clear _ := .of_eq rfl rfl rfl
  respond _ _ := .of_eq rfl rfl rfl
  silent _ := .of_eq rfl rfl rfl

section OtherGroup

variable {g j : Group} (h : g ≠ j) (s : State)

include h

theorem groupKept_setLoop (l : LoopState) : GroupKept g s (s.setLoop j l) :=
  .of_eq (PerGroup.get_set_other _ _ h) rfl rfl

theorem groupKept_setSnap (m : Word) : GroupKept g s (s.setSnap j m) :=
  .of_eq rfl (PerGroup.get_set_other _ _ h) rfl

theorem groupKept_takeSignal : GroupKept g s (s.takeSignal j) :=
  .of_eq rfl rfl (PerGroup.get_set_other _ _ h)

/-- The wake of another group (R219). -/
theorem groupKept_wakeOn (c : Config) : GroupKept g s (wakeOn c j s) :=
  wakeOn_keeps (groupKept_kept g) c j (groupKept_takeSignal h) (fun t _ => groupKept_setSnap h t _)
    (fun t => groupKept_setLoop h t _) s

/-- The scan of another group (R221). -/
theorem groupKept_scanOn (c : Config) : GroupKept g s (scanOn c j s) := by
  cases hk : nextSource c j s with
  | none =>
    rw [scanOn_of_no_source hk]
    exact groupKept_setLoop h s _
  | some k =>
    obtain ⟨rfl, -⟩ := nextSource_mem hk
    rw [scanOn_of_source hk]
    have hsnap := groupKept_setSnap h s (s.snapOf k.group &&& ~~~ k.bit)
    cases hp : c.hookPresent k with
    | true =>
      rw [dispatchSource_of_present hp]
      exact hsnap.trans (groupKept_setLoop h _ _)
    | false =>
      rw [dispatchSource_of_absent hp]
      exact hsnap

end OtherGroup

/-! ## What a step does to a group -/

/-- The granted command returns from the hook of `g` that is in progress (R224). -/
structure HookReturns (g : Group) (s t : State) : Prop where
  chosen : chooseTurn Config.current s = some (.request (.hook g))
  head : ∃ cmd rest k src, takeHead (.hook g) s.inbox = some (cmd, rest) ∧ decode cmd = .ok (.hret k) ∧
    Source.ofAux k = some src ∧ src.group = g ∧ s.loopOf g = .call src
  loop : t.loopOf g = .scan
  snap : t.snapOf g = s.snapOf g
  sig : t.sigOf g = s.sigOf g

/-- What a step from `s` to `t` is to the group `g`. -/
inductive GroupStep (g : Group) (s t : State) : Prop
  | wake (hc : chooseTurn Config.current s = some (.wake g)) (ht : t = wakeOn Config.current g s.drawn)
  | scan (hc : chooseTurn Config.current s = some (.scan g)) (ht : t = scanOn Config.current g s.drawn)
  | hookReturn (h : HookReturns g s t)
  | other (h : GroupKept g s t)

theorem groupKept_drawn (g : Group) (s : State) : GroupKept g s s.drawn := .of_eq rfl rfl rfl

theorem groupKept_accept (g : Group) (s : State) (o : Origin) (l : List Request) : GroupKept g s (s.accept o l) :=
  .of_eq rfl rfl rfl

/-- No command but HRET touches a loop. -/
theorem groupKept_exec {g : Group} {i : Instr} (hi : ∀ k, i ≠ .hret k) {s t : State} (e : exec i s = .next t) :
    GroupKept g s t :=
  exec_keeps (groupKept_kept g) i (fun _ _ _ => .of_eq rfl rfl rfl) (fun k hk => absurd hk (hi k)) e

/-- A granted HRET leaves the group alone, unless it ends a call of it. -/
theorem groupStep_hret {g : Group} {k : Byte} {o : Origin} {cmd : Command} {rest : List Request} {s t : State}
    (hc : chooseTurn Config.current s = some (.request o)) (hh : takeHead o s.inbox = some (cmd, rest))
    (hd : decode cmd = .ok (.hret k)) (e : exec (.hret k) (s.drawn.accept o rest) = .next t) : GroupStep g s t := by
  have hacc : GroupKept g s (s.drawn.accept o rest) := (groupKept_drawn g s).trans (groupKept_accept g _ o rest)
  obtain ⟨code, -, rfl⟩ | ⟨src, hk, ho, hl, rfl⟩ := exec_hret_cases e
  · exact .other (hacc.trans (.of_eq rfl rfl rfl))
  · by_cases hg : g = src.group
    · subst hg
      obtain rfl : o = .hook src.group := ho
      exact .hookReturn ⟨hc, ⟨cmd, rest, k, src, hh, hd, hk, rfl, hl⟩, PerGroup.get_set_same .., rfl, rfl⟩
    · have hleave : GroupKept g (s.drawn.accept o rest) (leaveHook src (s.drawn.accept o rest)) :=
        groupKept_setLoop hg _ .scan
      exact .other (hacc.trans (hleave.trans (.of_eq rfl rfl rfl)))

/-- Every step is one of the four to every group. -/
theorem step_groupStep (g : Group) {s t : State} (e : step s = .next t) : GroupStep g s t := by
  obtain ⟨-, ⟨-, rfl⟩ | ⟨u, hc, hr⟩⟩ := step_cases e
  · exact .other (.of_eq rfl rfl rfl)
  have hdrawn := groupKept_drawn g s
  cases u with
  | request o =>
    obtain rfl | ⟨cmd, rest, hh, ⟨i, hd, he⟩ | ⟨_, -, rfl⟩⟩ := runTurn_request_cases hr
    · exact .other hdrawn
    · by_cases hi : ∀ k, i ≠ .hret k
      · exact .other (hdrawn.trans ((groupKept_accept g _ o rest).trans (groupKept_exec hi he)))
      · push Not at hi
        obtain ⟨k, rfl⟩ := hi
        exact groupStep_hret hc hh hd he
    · exact .other (.of_eq rfl rfl rfl)
  | wake j =>
    obtain rfl := Host.Outcome.next.inj hr
    by_cases hg : g = j
    · subst hg
      exact .wake hc rfl
    · exact .other (hdrawn.trans (groupKept_wakeOn hg _ _))
  | scan j =>
    obtain rfl := Host.Outcome.next.inj hr
    by_cases hg : g = j
    · subst hg
      exact .scan hc rfl
    · exact .other (hdrawn.trans (groupKept_scanOn hg _ _))

/-- The own scan touches no signal (R221). -/
theorem scanOn_sigOf (c : Config) (g j : Group) (s : State) : (scanOn c g s).sigOf j = s.sigOf j := by
  cases hk : nextSource c g s with
  | none => rw [scanOn_of_no_source hk, State.setLoop_sigOf]
  | some k =>
    rw [scanOn_of_source hk]
    simp only [dispatchSource]
    split <;> rfl

/-- A signal goes down only in the wake of its group (R218, R219). -/
theorem sigOf_le_of_step {g : Group} {s t : State} (e : step s = .next t)
    (h : chooseTurn Config.current s ≠ some (.wake g)) : s.sigOf g ≤ t.sigOf g := by
  cases step_groupStep g e with
  | wake hc => exact absurd hc h
  | scan _ ht =>
    rw [ht, scanOn_sigOf]
    exact BitVec.le_refl _
  | hookReturn hret =>
    rw [hret.sig]
    exact BitVec.le_refl _
  | other hkept => exact hkept.sig

/-- Settles O41: `sigOf_le_of_step`, read backwards. -/
theorem onlyTheWakeTakesASignal : Obligations.OnlyTheWakeTakesASignal := by
  intro s t g e hlt
  by_contra h
  exact BitVec.not_lt.2 (sigOf_le_of_step e h) hlt

/-- The own wake goes to `SCAN`, unless the read observer of `PEND` faults (R219). -/
theorem wakeOn_loopOf (c : Config) (g : Group) (s : State) :
    (wakeOn c g s).loopOf g = .scan ∨ (wakeOn c g s).loopOf g = s.loopOf g := by
  cases h : fireRead (cascade c) (c.addr .pend) (s.reg c .pend) (s.clearActive.takeSignal g) with
  | ok v t =>
    rw [wakeOn_of_fire h]
    exact .inl (PerGroup.get_set_same ..)
  | halt t =>
    rw [wakeOn_of_halt h]
    have hk := groupKept_kept g
    have hkept := fireRead_keeps hk.toKept (cascade_keeps hk.toKept c) (c.addr .pend) (s.reg c .pend)
      (s.clearActive.takeSignal g)
    rw [h] at hkept
    exact .inr hkept.loop

theorem loopOf_of_choose_wake {c : Config} {g : Group} {s : State} (hc : chooseTurn c s = some (.wake g)) :
    s.loopOf g = .wait := (wakeEnabled_iff.1 (wake_mem_enabledTurns.1 (chooseTurn_mem hc))).1

theorem loopOf_of_choose_scan {c : Config} {g : Group} {s : State} (hc : chooseTurn c s = some (.scan g)) :
    s.loopOf g = .scan := (scanEnabled_iff.1 (scan_mem_enabledTurns.1 (chooseTurn_mem hc))).1

/-- Settles O48: the four kinds of step, of which the last leaves the loop. -/
theorem loopChangesOnlyByItsOwnSteps : Obligations.LoopChangesOnlyByItsOwnSteps := by
  intro s t g e hne
  cases step_groupStep g e with
  | wake hc ht =>
    subst ht
    exact .inl ⟨hc, loopOf_of_choose_wake hc, (wakeOn_loopOf _ g _).resolve_right hne⟩
  | scan hc => exact .inr (.inl ⟨hc, loopOf_of_choose_scan hc⟩)
  | hookReturn h =>
    obtain ⟨cmd, rest, k, src, hh, hd, hk, hg, hl⟩ := h.head
    exact .inr (.inr ⟨cmd, rest, k, src, h.chosen, hh, hd, hk, hg, hl, h.loop⟩)
  | other h => exact absurd h.loop hne

end Sys2Proof.Machine
end

section
/-! Under weak fairness a group whose signal is up is woken (R231). A run in which it is not, from some position on,
keeps the signal up; its loop comes to `WAIT`, since each scan takes a bit of the snapshot and each call returns; there
it stays, with the wake enabled, and fairness grants it. -/

namespace Sys2Proof.Machine

/-! ## A scan takes a bit of the snapshot (R221) -/

/-- How many sources of the group are set in its snapshot. -/
def snapCount (g : Group) (s : State) : Nat := (snapSources g (s.snapOf g)).length

theorem snapCount_congr {g : Group} {s t : State} (h : t.snapOf g = s.snapOf g) : snapCount g t = snapCount g s := by
  rw [snapCount, h, snapCount]

theorem snapSources_clear_bit (g : Group) (m : Word) (k : Source) :
    snapSources g (m &&& ~~~ k.bit) = (snapSources g m).filter fun j => j.index ≠ k.index := by
  simp only [snapSources, List.filter_filter, getLsbD_and_not_bit, Bool.and_comm]

theorem snapCount_dispatchSource_lt (c : Config) {g : Group} {k : Source} {s : State}
    (hk : k ∈ snapSources g (s.snapOf g)) :
    snapCount g (dispatchSource c g k s) < snapCount g s := by
  have hsnap : (dispatchSource c g k s).snapOf g = s.snapOf g &&& ~~~ k.bit := by
    simp only [dispatchSource]
    split <;> exact PerGroup.get_set_same ..
  rw [snapCount, hsnap, snapSources_clear_bit]
  exact List.length_filter_lt_length_iff_exists.2 ⟨k, hk, by simp⟩

/-- A scan goes to `WAIT`, the snapshot as it was, or takes a bit of it. -/
theorem scanOn_cases (c : Config) (g : Group) (s : State) :
    ((scanOn c g s).loopOf g = .wait ∧ snapCount g (scanOn c g s) = snapCount g s) ∨
      snapCount g (scanOn c g s) < snapCount g s := by
  cases hk : nextSource c g s with
  | none =>
    rw [scanOn_of_no_source hk]
    exact .inl ⟨PerGroup.get_set_same .., rfl⟩
  | some k =>
    rw [scanOn_of_source hk]
    exact .inr (snapCount_dispatchSource_lt c (mem_snapSources.2 (nextSource_mem hk)))

/-! ## A run that does not wake the group -/

/-- The premises of R231, and that the group is not woken from position n on. -/
structure UnwokenRun (σ : Nat → State) (g : Group) (n : Nat) : Prop where
  run : IsRun σ
  fair : WeaklyFair σ
  hooksReturn : HooksReturn σ
  unfaulted : ∀ m, (σ m).fault = none
  unwoken : ∀ m, n ≤ m → ¬ GrantedAt σ m (.wake g)

namespace UnwokenRun

variable {σ : Nat → State} {g : Group} {n : Nat} (h : UnwokenRun σ g n) {m : Nat} (hm : n ≤ m)

include h hm

/-- What a position does to the group: its scan is granted, its hook returns, or it is left alone. -/
theorem position_cases :
    (GrantedAt σ m (.scan g) ∧ σ (m + 1) = scanOn Config.current g (σ m).drawn) ∨ HookReturns g (σ m) (σ (m + 1)) ∨
      GroupKept g (σ m) (σ (m + 1)) := by
  obtain e | ⟨x, hx, e⟩ | ⟨l, e⟩ := h.run m
  · cases step_groupStep g e with
    | wake hc => exact absurd ⟨hc, e⟩ (h.unwoken m hm)
    | scan hc ht => exact .inl ⟨⟨hc, e⟩, ht⟩
    | hookReturn hret => exact .inr (.inl hret)
    | other hkept => exact .inr (.inr hkept)
  · have hk := groupKept_kept g
    rw [e]
    exact .inr (.inr (input_keeps hk.refl hk.trans (fun _ _ => .of_eq rfl rfl rfl)
      (fun _ _ _ => .of_eq rfl rfl rfl) hx _))
  · rw [e]
    exact .inr (.inr (.of_eq rfl rfl rfl))

theorem sigOf_succ_ne_zero (hs : (σ m).sigOf g ≠ 0) : (σ (m + 1)).sigOf g ≠ 0 := by
  have hle : (σ m).sigOf g ≤ (σ (m + 1)).sigOf g := by
    obtain ⟨-, e⟩ | hret | hkept := h.position_cases hm
    · rw [e, scanOn_sigOf]
      exact BitVec.le_refl _
    · rw [hret.sig]
      exact BitVec.le_refl _
    · exact hkept.sig
  bv_omega

theorem snapCount_succ_le : snapCount g (σ (m + 1)) ≤ snapCount g (σ m) := by
  obtain ⟨-, e⟩ | hret | hkept := h.position_cases hm
  · rw [e]
    obtain ⟨-, he⟩ | hlt := scanOn_cases Config.current g (σ m).drawn
    · exact he.le
    · exact hlt.le
  · exact (snapCount_congr hret.snap).le
  · exact (snapCount_congr hkept.snap).le

/-- The loop leaves `WAIT` in no way but a wake (R219). -/
theorem loopOf_succ_of_wait (hl : (σ m).loopOf g = .wait) : (σ (m + 1)).loopOf g = .wait := by
  obtain ⟨⟨hc, -⟩, -⟩ | hret | hkept := h.position_cases hm
  · cases hl.symm.trans (loopOf_of_choose_scan hc)
  · obtain ⟨_, _, _, _, -, -, -, -, hcall⟩ := hret.head
    cases hl.symm.trans hcall
  · exact hkept.loop.trans hl

/-- The loop leaves `SCAN` in no way but a scan (R221). -/
theorem loopOf_succ_of_scan (hl : (σ m).loopOf g = .scan) (hn : ¬ GrantedAt σ m (.scan g)) :
    (σ (m + 1)).loopOf g = .scan := by
  obtain ⟨hg, -⟩ | hret | hkept := h.position_cases hm
  · exact absurd hg hn
  · exact hret.loop
  · exact hkept.loop.trans hl

/-- The loop leaves a call for `SCAN` (R224). -/
theorem loopOf_succ_of_call {k : Source} (hl : (σ m).loopOf g = .call k) :
    (σ (m + 1)).loopOf g = .scan ∨ (σ (m + 1)).loopOf g = .call k := by
  obtain ⟨⟨hc, -⟩, -⟩ | hret | hkept := h.position_cases hm
  · cases hl.symm.trans (loopOf_of_choose_scan hc)
  · exact .inl hret.loop
  · exact .inr (hkept.loop.trans hl)

/-! ## The loop comes to `WAIT` -/

theorem snapCount_le {j : Nat} (hj : m ≤ j) : snapCount g (σ j) ≤ snapCount g (σ m) := by
  induction j, hj using Nat.le_induction with
  | base => exact le_rfl
  | succ j hj ih => exact (h.snapCount_succ_le (hm.trans hj)).trans ih

/-- A group in `SCAN` is scanned, by fairness. -/
theorem exists_scan_granted (hl : (σ m).loopOf g = .scan) : ∃ j, m ≤ j ∧ GrantedAt σ j (.scan g) := by
  by_contra hn
  push Not at hn
  have hstays : ∀ j, m ≤ j → (σ j).loopOf g = .scan := fun j hj => by
    induction j, hj using Nat.le_induction with
    | base => exact hl
    | succ j hj ih => exact h.loopOf_succ_of_scan (hm.trans hj) ih (hn j hj)
  obtain ⟨j, hj, hg⟩ := h.fair (.scan g) m fun j hj =>
    scan_mem_enabledTurns.2 (scanEnabled_iff.2 ⟨hstays j hj, h.unfaulted j⟩)
  exact hn j hj hg

/-- From `SCAN` the loop comes to `WAIT`, or to a state with fewer bits in the snapshot. -/
theorem scan_progress (hl : (σ m).loopOf g = .scan) :
    ∃ j, m ≤ j ∧ ((σ j).loopOf g = .wait ∨ snapCount g (σ j) < snapCount g (σ m)) := by
  obtain ⟨j, hj, hc, e⟩ := h.exists_scan_granted hm hl
  have ht : σ (j + 1) = scanOn Config.current g (σ j).drawn :=
    (Host.Outcome.next.inj ((step_of_choose (h.unfaulted j) hc).symm.trans e)).symm
  refine ⟨j + 1, hj.trans (Nat.le_succ j), ?_⟩
  rw [ht]
  exact (scanOn_cases Config.current g (σ j).drawn).imp And.left fun hlt => hlt.trans_le (h.snapCount_le hm hj)

/-- From a call the loop comes to `SCAN`, since the hook returns. -/
theorem call_progress {k : Source} (hl : (σ m).loopOf g = .call k) : ∃ j, m ≤ j ∧ (σ j).loopOf g = .scan := by
  by_contra hn
  push Not at hn
  have hstays : ∀ j, m ≤ j → (σ j).loopOf g = .call k := fun j hj => by
    induction j, hj using Nat.le_induction with
    | base => exact hl
    | succ j hj ih =>
      exact (h.loopOf_succ_of_call (hm.trans hj) ih).resolve_left (hn (j + 1) (hj.trans (Nat.le_succ j)))
  obtain ⟨j, hj, hne⟩ := h.hooksReturn m g k hl
  exact hne (hstays j hj)

/-- From any position the loop comes to `WAIT`, by induction on the bits left in the snapshot. -/
theorem exists_wait : ∃ j, m ≤ j ∧ (σ j).loopOf g = .wait := by
  induction hN : snapCount g (σ m) using Nat.strong_induction_on generalizing m with
  | _ N ih =>
    subst hN
    have hscan : ∀ i, m ≤ i → (σ i).loopOf g = .scan → ∃ j, m ≤ j ∧ (σ j).loopOf g = .wait := by
      intro i hi hl
      obtain ⟨j, hj, hw | hlt⟩ := h.scan_progress (hm.trans hi) hl
      · exact ⟨j, hi.trans hj, hw⟩
      · have hmj := hi.trans hj
        obtain ⟨j', hj', hw⟩ := ih _ (hlt.trans_le (h.snapCount_le hm hi)) (hm.trans hmj) rfl
        exact ⟨j', hmj.trans hj', hw⟩
    cases hl : (σ m).loopOf g with
    | wait => exact ⟨m, le_rfl, hl⟩
    | scan => exact hscan m le_rfl hl
    | call k =>
      obtain ⟨i, hi, hs⟩ := h.call_progress hm hl
      exact hscan i hi hs

/-- The signal stays up, so no such run has it up. -/
theorem sigOf_eq_zero : (σ m).sigOf g = 0 := by
  by_contra hs
  obtain ⟨i, hi, hl⟩ := h.exists_wait hm
  have hsig : ∀ j, m ≤ j → (σ j).sigOf g ≠ 0 := fun j hj => by
    induction j, hj using Nat.le_induction with
    | base => exact hs
    | succ j hj ih => exact h.sigOf_succ_ne_zero (hm.trans hj) ih
  have hwait : ∀ j, i ≤ j → (σ j).loopOf g = .wait := fun j hj => by
    induction j, hj using Nat.le_induction with
    | base => exact hl
    | succ j hj ih => exact h.loopOf_succ_of_wait (hm.trans (hi.trans hj)) ih
  obtain ⟨j, hj, hg⟩ := h.fair (.wake g) i fun j hj =>
    wake_mem_enabledTurns.2 (wakeEnabled_iff.2 ⟨hwait j hj, hsig j (hi.trans hj), h.unfaulted j⟩)
  exact h.unwoken j (hm.trans (hi.trans hj)) hg

end UnwokenRun

/-- Settles O49: a run that never wakes the group has its signal down. -/
theorem signalledGroupIsEventuallyWoken : Obligations.SignalledGroupIsEventuallyWoken := by
  intro σ g n hrun hfair hhooks hfault hs
  by_contra hn
  push Not at hn
  exact hs (UnwokenRun.sigOf_eq_zero ⟨hrun, hfair, hhooks, hfault, hn⟩ le_rfl)

end Sys2Proof.Machine
end

section
/-! Reset and the inputs of the outside world (R260, R261, R276): what the state after reset is, that it meets the
invariant, and that every input keeps the invariant. -/

namespace Sys2Proof.Machine

/-! ## The state after reset (R260, R261) -/

/-- Each IN register is watched by the input producer of its port after reset (R261): those registered later stand at
other addresses (R37). -/
theorem resetWobs_gpioIn (c : Config) (p : Port) : assocGet (resetWobs c) (c.addr (.gpioIn p)) = some (.gpioIn p) := by
  cases p <;> simp [resetWobs, assocGet_put_other]

section Groups

variable (c : Config) (g : Group)

theorem sigOf_resetOn : (resetOn c).sigOf g = 0 := by cases g <;> rfl

theorem loopOf_resetOn : (resetOn c).loopOf g = .wait := by cases g <;> rfl

theorem snapOf_resetOn : (resetOn c).snapOf g = 0 := by cases g <;> rfl

end Groups

/-- No hook is in progress after reset and `PEND` is 0 (R40, R260). -/
theorem sourceState_resetOn (c : Config) (k : Source) : sourceState c (resetOn c) k = .idle := by
  have hcall : (resetOn c).loopOf k.group ≠ .call k := (loopOf_resetOn c k.group).trans_ne nofun
  have hpend : pendBit c (resetOn c) k = false := BitVec.getLsbD_zero
  rw [sourceState_of_not_call hcall, hpend]
  rfl

/-- No input but reset writes `FAULT` (R214). -/
theorem hostInput_fault {x : HostInput} (hx : x ≠ .reset) (c : Config) (s : State) :
    (hostInput c x s).fault = s.fault :=
  input_keeps (R := fun s t => t.fault = s.fault) (fun _ => rfl) (fun _ _ _ h h' => h'.trans h) (fun _ _ => rfl)
    (fun _ _ _ => rfl) hx s

/-- Settles O50: a faulted machine takes no step, and an input other than reset leaves `FAULT` alone. -/
theorem resetState : Obligations.ResetState := by
  have hgroups (g : Group) := And.intro (sigOf_resetOn Config.current g)
    (And.intro (loopOf_resetOn Config.current g) (snapOf_resetOn Config.current g))
  exact ⟨fun _ => rfl, fun _ => rfl, fun _ => rfl, resetWobs_gpioIn _, fun _ => resetWobs_of_ne, hgroups, rfl, rfl,
    List.length_replicate, fun _ hx => List.eq_of_mem_replicate hx, rfl, sourceState_resetOn _, rfl,
    fun _ _ e => (step_cases e).1, fun _ s hx => hostInput_fault hx _ s, fun _ => rfl⟩

/-! ## The invariant at reset and across inputs (R260, R276) -/

theorem inv_resetOn (c : Config) : (resetOn c).Inv c where
  maps := ⟨Memory.wf_nil, List.Pairwise.nil, assocSorted_resetWobs c⟩
  snapMasked g := by rw [snapOf_resetOn]; exact BitVec.zero_and
  callInGroup g _ h := nomatch (loopOf_resetOn c g).symm.trans h
  idle := rfl
  histLen := List.length_replicate
  widxBound := c.dacHistLen_pos

/-- Settles O51: the maps are empty or built by registrations, and nothing is in progress. -/
theorem resetMeetsTheInvariant : Obligations.ResetMeetsTheInvariant := inv_resetOn _

/-- The invariant says nothing of the queues and of the port of the last response. -/
theorem State.Inv.hostInput {c : Config} {s : State} (h : s.Inv c) {x : HostInput} (hx : x ≠ .reset) :
    (hostInput c x s).Inv c :=
  input_keeps (R := fun s t => s.Inv c → t.Inv c) (fun _ => id) (fun _ _ _ h h' => h' ∘ h)
    (fun _ _ h => { h with maps := ⟨h.maps.cells, h.maps.robs, h.maps.wobs⟩ })
    (fun _ _ _ h => { h with maps := ⟨h.maps.cells, h.maps.robs, h.maps.wobs⟩ }) hx s h

/-- Settles O53: reset gives a state that meets the invariant, and the other inputs change nothing it speaks of. -/
theorem inputKeepsTheInvariant : Obligations.InputKeepsTheInvariant := by
  intro x s h
  by_cases hx : x = .reset
  · subst hx
    exact inv_resetOn _
  · exact h.hostInput hx

end Sys2Proof.Machine
end
